-- ==== Sys2Proof/Word.lean ====
section
/-! DEFINITION. The word types: bytes, register words, 64-bit values and CRC values (00_scope.md R11, 20_memory.md R50). -/

namespace Sys2Proof

/-- One byte of the stream, of `BUF` or of `FRB` (R50). -/
abbrev Byte := BitVec 8

/-- One 32-bit register of the window, and one command word (R21, R70). -/
abbrev Word := BitVec 32

/-- A 64-bit value: `RES`, `SCALE`, or a binary64 bit pattern (R31, R33, R16). -/
abbrev Word64 := BitVec 64

/-- A 24-bit CRC value: `CRC`, `FCRC`, or the CRC field of a frame (R35, R28, R52). -/
abbrev Crc24 := BitVec 24

end Sys2Proof
end

