-- ==== Sys2Proof/Config.lean ====
section
/-! DEFINITION. The parameters of 00_scope.md A4, the platform's open parameter, and the one free value. -/

namespace Sys2Proof

/-- R5: the capacity of the input buffer in bytes. -/
abbrev Config.bufCap : Nat := 2048

/-- R6: the largest payload length in bytes. -/
abbrev Config.maxLen : Nat := 1023

/-- R7: the smallest payload length the framer accepts. -/
abbrev Config.minLen : Nat := 2

/-- R8: the widest field one bit-reader read returns. -/
abbrev Config.maxN : Nat := 64

/-- R9: the capacity of the frame buffer in bytes. -/
abbrev Config.frbCap : Nat := Config.maxLen

/-- R9: the capacity of the payload bit space. -/
abbrev Config.bitCap : Nat := 8 * Config.frbCap

/-- R141: the sync byte. -/
abbrev Config.sync : Byte := 0xD3#8

/-- R120: the CRC-24Q generator, coefficients of x^24 down to 1. -/
abbrev Config.poly : BitVec 25 := 0x1864CFB#25

/-- R34: the reset value of `SCALE`, the binary64 value 1.0. -/
abbrev Config.scaleReset : Word64 := 0x3FF0000000000000#64

/-- R10, K1-13: `BLOCK_BASE` of the block's n-th instance (R181: each instance has its own window), OPEN. No body: nothing can be proved
of its value. -/
opaque Config.blockBase : Nat → Nat

/-- K1-10: the free value behind a NaN result, from the number of the block's instance, the count of NaN results before it, and the two factors.
No body: nothing can be proved of a value of it. DESIGN CHOICE (log entry 4): the pattern is a function of these four and of nothing else, so two
NaN results that agree in all four are the same pattern; K1-10 does not say so. -/
opaque Config.freeNan : Nat → Nat → Word64 → Word64 → Word64

end Sys2Proof
end

