-- ==== Sys2Proof/Syntax.lean ====
section
/-! DEFINITION. The commands (30_encoding.md R76): one constructor per row of spec/opcode_table.json. -/

namespace Sys2Proof

/-- The fifteen commands with their operand fields (R71 to R76). -/
inductive Instr where
  /-- R160: format N, OPC 0x00. -/
  | nop
  /-- R161: format N, OPC 0x01. -/
  | srst
  /-- R162: format N, OPC 0x02. -/
  | clrerr
  /-- R148: format B, OPC 0x10; the operand is BYTE (R72). -/
  | push (byte : BitVec 8)
  /-- R150: format N, OPC 0x11. -/
  | next
  /-- R102: format N, OPC 0x20. -/
  | rewind
  /-- R103: format W, OPC 0x21; the operand is the width N (R73). -/
  | getu (n : BitVec 7)
  /-- R104: format W, OPC 0x22. -/
  | gets (n : BitVec 7)
  /-- R105: format W, OPC 0x23. -/
  | getsm (n : BitVec 7)
  /-- R106: format W, OPC 0x24. -/
  | getf (n : BitVec 7)
  /-- R107: format W, OPC 0x25. -/
  | getfs (n : BitVec 7)
  /-- R108: format S, OPC 0x26; the operand is the count N (R74). -/
  | skip (n : BitVec 14)
  /-- R125: format N, OPC 0x30. -/
  | crcinit
  /-- R126: format B, OPC 0x31. -/
  | crcbyte (byte : BitVec 8)
  /-- R127: format V, OPC 0x32; the operand is V (R75). -/
  | crcchk (v : BitVec 24)
deriving DecidableEq, Repr

/-- The table's name of a command (R76). -/
def Instr.mnemonic : Instr → String
  | .nop => "NOP"
  | .srst => "SRST"
  | .clrerr => "CLRERR"
  | .push _ => "PUSH"
  | .next => "NEXT"
  | .rewind => "REWIND"
  | .getu _ => "GETU"
  | .gets _ => "GETS"
  | .getsm _ => "GETSM"
  | .getf _ => "GETF"
  | .getfs _ => "GETFS"
  | .skip _ => "SKIP"
  | .crcinit => "CRCINIT"
  | .crcbyte _ => "CRCBYTE"
  | .crcchk _ => "CRCCHK"

end Sys2Proof
end

