-- ==== Sys2Proof/WellFormed.lean ====
section
/-! DEFINITION. Which commands are legal: the widths of format W (30_encoding.md R71, R73). -/

namespace Sys2Proof

/-- R73: a field width is legal when it is at most 64. -/
abbrev widthLegal (n : BitVec 7) : Prop := n.toNat ≤ Config.maxN

/-- The check on a command's operands. Every operand of the other formats is legal at every value (R72, R74, R75). -/
def Instr.wellFormed : Instr → Bool
  | .getu n => decide (widthLegal n)
  | .gets n => decide (widthLegal n)
  | .getsm n => decide (widthLegal n)
  | .getf n => decide (widthLegal n)
  | .getfs n => decide (widthLegal n)
  | .nop | .srst | .clrerr | .push _ | .next | .rewind | .skip _ | .crcinit | .crcbyte _ | .crcchk _ => true

/-- The same check as a proposition. -/
abbrev Instr.WellFormed (i : Instr) : Prop := i.wellFormed = true

end Sys2Proof
end

