-- ==== Sys2Proof/Decode.lean ====
section
/-! DEFINITION. Decoding and encoding of command words (30_encoding.md R70 to R79). -/

namespace Sys2Proof

/-- Why a word is illegal: the three cases of R77. -/
inductive DecodeError where
  /-- R77 (a), R78: OPC is not in the opcode map. -/
  | reservedOpcode
  /-- R77 (b): an ARG bit that the format requires to be 0 is 1. -/
  | reservedOperandBit
  /-- R77 (c): a format-W word has N in 65..127. -/
  | widthOutOfRange
deriving DecidableEq, Repr

/-- R70: the opcode field `w[31:24]`. -/
def opcOf (w : Word) : BitVec 8 := w.extractLsb' 24 8

/-- R70: the operand field `w[23:0]`. -/
def argOf (w : Word) : BitVec 24 := w.extractLsb' 0 24

/-- R71: format N, `ARG[23:0]` = 0. -/
def formN (i : Instr) (a : BitVec 24) : Except DecodeError Instr :=
  if a = 0#24 then .ok i else .error .reservedOperandBit

/-- R71, R72: format B, `ARG[23:8]` = 0, BYTE = `ARG[7:0]`. -/
def formB (mk : BitVec 8 → Instr) (a : BitVec 24) : Except DecodeError Instr :=
  if a.extractLsb' 8 16 = 0#16 then .ok (mk (a.extractLsb' 0 8)) else .error .reservedOperandBit

/-- R71, R73: format W, `ARG[23:7]` = 0, N = `ARG[6:0]` ≤ 64. -/
def formW (mk : BitVec 7 → Instr) (a : BitVec 24) : Except DecodeError Instr :=
  if a.extractLsb' 7 17 = 0#17 then
    if widthLegal (a.extractLsb' 0 7) then .ok (mk (a.extractLsb' 0 7)) else .error .widthOutOfRange
  else .error .reservedOperandBit

/-- R71, R74: format S, `ARG[23:14]` = 0, N = `ARG[13:0]`. -/
def formS (mk : BitVec 14 → Instr) (a : BitVec 24) : Except DecodeError Instr :=
  if a.extractLsb' 14 10 = 0#10 then .ok (mk (a.extractLsb' 0 14)) else .error .reservedOperandBit

/-- R71, R75: format V, V = `ARG[23:0]`, always legal. -/
def formV (mk : BitVec 24 → Instr) (a : BitVec 24) : Except DecodeError Instr :=
  .ok (mk a)

/-- R76: the command of an opcode and an operand field, or why there is none. -/
def decodeFields (opc : BitVec 8) (arg : BitVec 24) : Except DecodeError Instr :=
  match opc with
  | 0x00#8 => formN .nop arg
  | 0x01#8 => formN .srst arg
  | 0x02#8 => formN .clrerr arg
  | 0x10#8 => formB .push arg
  | 0x11#8 => formN .next arg
  | 0x20#8 => formN .rewind arg
  | 0x21#8 => formW .getu arg
  | 0x22#8 => formW .gets arg
  | 0x23#8 => formW .getsm arg
  | 0x24#8 => formW .getf arg
  | 0x25#8 => formW .getfs arg
  | 0x26#8 => formS .skip arg
  | 0x30#8 => formN .crcinit arg
  | 0x31#8 => formB .crcbyte arg
  | 0x32#8 => formV .crcchk arg
  | _ => .error .reservedOpcode

/-- R76, R77: the command a word selects, or why it selects none. It depends on the word alone (R79). -/
def decode (w : Word) : Except DecodeError Instr := decodeFields (opcOf w) (argOf w)

/-- What the decoder reads from an instruction whose bits are w, numbered as spec/opcode_table.json numbers them. A command is exactly one
32-bit word (R70), so a word with a bit above bit 31 is no command. -/
def decodeTableWord (nbits w : Nat) : Option Instr :=
  if w % 2 ^ nbits < 2 ^ 32 then (decode (BitVec.ofNat 32 (w % 2 ^ nbits))).toOption else none

/-- R70: the word of an opcode and an operand field. -/
def wordOf (opc : BitVec 8) (arg : BitVec 24) : Word := opc ++ arg

/-- R71's bit diagram of format N. -/
def wordN (opc : BitVec 8) : Word := wordOf opc 0#24

/-- R71, format B. -/
def wordB (opc : BitVec 8) (b : BitVec 8) : Word := wordOf opc (0#16 ++ b)

/-- R71, format W. -/
def wordW (opc : BitVec 8) (n : BitVec 7) : Word := wordOf opc (0#17 ++ n)

/-- R71, format S. -/
def wordS (opc : BitVec 8) (n : BitVec 14) : Word := wordOf opc (0#10 ++ n)

/-- R71, format V. -/
def wordV (opc : BitVec 8) (v : BitVec 24) : Word := wordOf opc v

/-- R76: the command word of a command. -/
def encode : Instr → Word
  | .nop => wordN 0x00#8
  | .srst => wordN 0x01#8
  | .clrerr => wordN 0x02#8
  | .push b => wordB 0x10#8 b
  | .next => wordN 0x11#8
  | .rewind => wordN 0x20#8
  | .getu n => wordW 0x21#8 n
  | .gets n => wordW 0x22#8 n
  | .getsm n => wordW 0x23#8 n
  | .getf n => wordW 0x24#8 n
  | .getfs n => wordW 0x25#8 n
  | .skip n => wordS 0x26#8 n
  | .crcinit => wordN 0x30#8
  | .crcbyte b => wordB 0x31#8 b
  | .crcchk v => wordV 0x32#8 v

/-- R71: the five operand formats. -/
inductive Format where
  | N | B | W | S | V
deriving DecidableEq, Repr

/-- One row of the opcode map (R76): mnemonic, format, match and mask. -/
structure OpcodeRow where
  mnemonic : String
  format : Format
  code : Word
  mask : Word
deriving DecidableEq, Repr

/-- R76: the opcode map as the spec tabulates it. `decode` is the decoder; this table is the spec's own statement of which words are legal. -/
def opcodeTable : List OpcodeRow :=
  [ ⟨"NOP", .N, 0x00000000#32, 0xFFFFFFFF#32⟩,
    ⟨"SRST", .N, 0x01000000#32, 0xFFFFFFFF#32⟩,
    ⟨"CLRERR", .N, 0x02000000#32, 0xFFFFFFFF#32⟩,
    ⟨"PUSH", .B, 0x10000000#32, 0xFFFFFF00#32⟩,
    ⟨"NEXT", .N, 0x11000000#32, 0xFFFFFFFF#32⟩,
    ⟨"REWIND", .N, 0x20000000#32, 0xFFFFFFFF#32⟩,
    ⟨"GETU", .W, 0x21000000#32, 0xFFFFFF80#32⟩,
    ⟨"GETS", .W, 0x22000000#32, 0xFFFFFF80#32⟩,
    ⟨"GETSM", .W, 0x23000000#32, 0xFFFFFF80#32⟩,
    ⟨"GETF", .W, 0x24000000#32, 0xFFFFFF80#32⟩,
    ⟨"GETFS", .W, 0x25000000#32, 0xFFFFFF80#32⟩,
    ⟨"SKIP", .S, 0x26000000#32, 0xFFFFC000#32⟩,
    ⟨"CRCINIT", .N, 0x30000000#32, 0xFFFFFFFF#32⟩,
    ⟨"CRCBYTE", .B, 0x31000000#32, 0xFFFFFF00#32⟩,
    ⟨"CRCCHK", .V, 0x32000000#32, 0xFF000000#32⟩ ]

/-- R76: a word selects a row when `(w AND mask) = match` and, for format W, N ≤ 64. -/
def OpcodeRow.selectedBy (r : OpcodeRow) (w : Word) : Prop :=
  w &&& r.mask = r.code ∧ (r.format = .W → (w.extractLsb' 0 7).toNat ≤ Config.maxN)

end Sys2Proof
end

