-- ==== Sys2Proof/Machine/State.lean ====
section
/-! DEFINITION. The state of the block and of its host's run (10_state.md), the ways a step can stop, and reset (R44). -/

namespace Sys2Proof.Machine

/-- R23: the result of the most recent NEXT. No other value can occur. -/
inductive Last where
  | none | frame | need | empty
deriving DecidableEq, Repr

/-- R14: what one host access does. -/
inductive AccessKind where
  /-- `MmioRead(off)`. -/
  | read
  /-- `MmioWrite(off, v)`. The value of an access that is not 32 bits wide is never looked at: such an access is refused (R56). -/
  | write (v : Word)
deriving DecidableEq, Repr

/-- One host access: the agent that makes it (R65), its byte offset from `BLOCK_BASE` (R14; negative below the window), its width in bits
(R56), and what it does. -/
structure Access where
  agent : Nat
  off   : Int
  width : Nat
  kind  : AccessKind
deriving DecidableEq, Repr

/-- The block raises no exception and takes no trap (R15, R170, R175), so no step ends in a fault: no constructor. -/
inductive Fault where
deriving DecidableEq, Repr

/-- Why a step has no meaning. -/
inductive Refusal where
  /-- Raised by an arm of `exec` whose command has no meaning yet; no arm raises it. Safe. -/
  | notModelled (mnemonic : String)
  /-- Raised by `serve` for an access that is not 32 bits wide (R56, K1-11). Safe: the spec tells a model to refuse it. -/
  | accessWidth
  /-- Raised by `serve` for an offset that is not a multiple of 4 (R56, K1-11). Safe: the spec tells a model to refuse it. -/
  | accessMisaligned
  /-- Raised by `serve` for an offset outside 0x00..0x3F (R56, K1-11). Safe: the spec tells a model to refuse it. -/
  | accessOutsideWindow
  /-- Raised by `serve` for an access by a second agent (R65, R201, K1-12). Safe: the spec tells a model to refuse it. -/
  | secondAgent
deriving DecidableEq, Repr

/-- Every piece of state the spec gives the block (R21, R22, R36, R37), then the model's own record of the host's run. `CNT` and `FLEN` are
the lengths of `buf` and `frb` (10_state.md after R37; log entry 3), FULL is computed (R22). -/
structure State where
  /-- R36: the valid bytes of the input buffer, `BUF[0..CNT-1]`. -/
  buf      : List Byte
  /-- R22, R23: LAST. -/
  last     : Last
  /-- R25: NEED. -/
  need     : BitVec 11
  /-- R22: FVALID. -/
  fvalid   : Bool
  /-- R37: the valid bytes of the frame buffer, `FRB[0..FLEN-1]`. -/
  frb      : List Byte
  /-- R27: MSGID. -/
  msgid    : BitVec 12
  /-- R28: FCRC. -/
  fcrc     : Crc24
  /-- R29: BRPOS, the bit cursor. -/
  brpos    : BitVec 13
  /-- R22, R30: BRERR, sticky. -/
  brerr    : Bool
  /-- R31: RES. -/
  res      : Word64
  /-- R33: SCALE. -/
  scale    : Word64
  /-- R35: CRC, the standalone accumulator. -/
  crc      : Crc24
  /-- R22: CRCM. -/
  crcm     : Bool
  /-- R22: ILL, sticky. -/
  ill      : Bool
  /-- R22: OVF, sticky. -/
  ovf      : Bool
  /-- The model's own (log entry 2): the agent whose accesses the block has taken so far. -/
  client   : Option Nat
  /-- The model's own (log entry 1): the host accesses not yet taken, oldest first. -/
  pending  : List Access
  /-- The model's own (log entry 1): the values the host's reads returned, oldest first (R203). -/
  readback : List Word
  /-- The model's own (log entry 4): how many free NaN patterns have been drawn. -/
  draws    : Nat
  /-- The model's own (log entry 14): the number of this instance of the block on its platform (R181). -/
  unit     : Nat
deriving DecidableEq, Repr

/-- R44, R190: the state after power-on reset. The last five fields are the model's own (log entries 1, 2, 4 and 14). -/
def State.reset : State where
  buf := []
  last := .none
  need := 0#11
  fvalid := false
  frb := []
  msgid := 0#12
  fcrc := 0#24
  brpos := 0#13
  brerr := false
  res := 0#64
  scale := Config.scaleReset
  crc := 0#24
  crcm := false
  ill := false
  ovf := false
  client := Option.none
  pending := []
  readback := []
  draws := 0
  unit := 0

end Sys2Proof.Machine
end

