-- ==== Sys2Proof/Machine/Flags.lean ====
section
/-! DEFINITION. STATUS (10_state.md R22, R23, R40) and the error conditions (60_exceptions.md R171, R176). The block takes no exception (R170,
R175): where another machine would take one, it sets one of these flags, and these are the shared operations that do so. -/

namespace Sys2Proof.Machine

/-- R23: the codes of LAST. -/
def Last.code : Last → BitVec 2
  | .none => 0#2
  | .frame => 1#2
  | .need => 2#2
  | .empty => 3#2

/-- R24, R36: CNT. -/
def State.cnt (s : State) : Nat := s.buf.length

/-- R22: FULL, computed from CNT on each read. -/
def State.full (s : State) : Bool := s.cnt == Config.bufCap

/-- R22: STATUS as read: LAST in bits 1:0, then FVALID, BRERR, CRCM, ILL, OVF, FULL; bits 31:8 read 0. -/
def State.status (s : State) : Word :=
  0#24 ++ BitVec.ofBool s.full ++ BitVec.ofBool s.ovf ++ BitVec.ofBool s.ill ++ BitVec.ofBool s.crcm ++ BitVec.ofBool s.brerr
    ++ BitVec.ofBool s.fvalid ++ s.last.code

/-- R101, R171: `fail`: a bit-reader command overran; nothing else changes (R111). -/
def State.markOverrun (s : State) : State := { s with brerr := true }

/-- R77, R171: an illegal command word; nothing else changes. -/
def State.markIllegal (s : State) : State := { s with ill := true }

/-- R148, R171: a PUSH found the buffer full; its byte is dropped. -/
def State.markOverflow (s : State) : State := { s with ovf := true }

/-- R162, R176: `ILL <- 0; OVF <- 0`. -/
def State.clearErrors (s : State) : State := { s with ill := false, ovf := false }

/-- R127: `CRCM <- b`. -/
def State.setCrcm (s : State) (b : Bool) : State := { s with crcm := b }

/-- R150: `LAST <- l; NEED <- k`. -/
def State.setExit (s : State) (l : Last) (k : Nat) : State := { s with last := l, need := BitVec.ofNat 11 k }

end Sys2Proof.Machine
end

