-- ==== Sys2Proof/Machine/Float64.lean ====
section
/-! DEFINITION. IEEE 754 binary64 as GETF and GETFS use it (00_scope.md R16, 40_bitreader.md R106, 92_eei_decisions.md D20,
93_implementation_defined.md K1-14, GK-2): conversion of an integer and one product, each rounded once to nearest, ties to even. -/

namespace Sys2Proof.Machine

/-- GK-2: what a binary64 pattern is. A finite number is `(-1)^neg * m * 2^e`; zero has m = 0. -/
inductive F64 where
  | nan
  | infinite (neg : Bool)
  | finite (neg : Bool) (m : Nat) (e : Int)
deriving DecidableEq, Repr

/-- GK-2: sign bit 63. -/
def f64Sign (b : Word64) : Bool := b.getLsbD 63

/-- GK-2: exponent bits 62:52. -/
def f64Exponent (b : Word64) : BitVec 11 := b.extractLsb' 52 11

/-- GK-2: fraction bits 51:0. -/
def f64Fraction (b : Word64) : BitVec 52 := b.extractLsb' 0 52

/-- K1-10: some NaN pattern: exponent bits all 1, fraction bits not all 0. -/
def f64IsNan (b : Word64) : Bool := f64Exponent b == 0x7FF#11 && f64Fraction b != 0#52

/-- R16: `f64(b)`, exponent bias 1023. -/
def f64Unpack (b : Word64) : F64 :=
  if f64Exponent b = 0x7FF#11 then
    if f64Fraction b = 0#52 then .infinite (f64Sign b) else .nan
  else if f64Exponent b = 0#11 then .finite (f64Sign b) (f64Fraction b).toNat (-1074)
  else .finite (f64Sign b) (2 ^ 52 + (f64Fraction b).toNat) ((f64Exponent b).toNat - 1075)

/-- The pattern with the given sign and the given 63 low bits. -/
def f64Pattern (neg : Bool) (magnitude : Nat) : Word64 := BitVec.ofBool neg ++ BitVec.ofNat 63 magnitude

/-- The low 63 bits of an infinity. -/
def f64InfinityBits : Nat := 0x7FF * 2 ^ 52

/-- R16: `m / 2^k` rounded to the nearest integer, ties to even. -/
def roundHalfEven (m k : Nat) : Nat :=
  let q := m / 2 ^ k
  let r := 2 * (m % 2 ^ k)
  if r > 2 ^ k ∨ (r = 2 ^ k ∧ q % 2 = 1) then q + 1 else q

/-- The exponent of the last place of a result near `m * 2^e`: 52 places below the leading bit, and never below -1074 (subnormal numbers). -/
def f64Ulp (m : Nat) (e : Int) : Int := max (Nat.log2 m + e - 52) (-1074)

/-- The significand of `m * 2^e` in units of `2^(f64Ulp m e)`, rounded to nearest, ties to even. -/
def f64Significand (m : Nat) (e : Int) : Nat :=
  if f64Ulp m e ≤ e then m * 2 ^ (e - f64Ulp m e).toNat else roundHalfEven m (f64Ulp m e - e).toNat

/-- R16: the binary64 number nearest `(-1)^neg * m * 2^e`, ties to even; an infinity when the rounded number is beyond the largest finite one.
A significand r in units of `2^q` has the low 63 bits `(q + 1074) * 2^52 + r`: the hidden bit of r adds one to the exponent field, and so does a
carry out of rounding. -/
def f64Round (neg : Bool) (m : Nat) (e : Int) : Word64 :=
  if m = 0 then f64Pattern neg 0
  else f64Pattern neg (min ((f64Ulp m e + 1074).toNat * 2 ^ 52 + f64Significand m e) f64InfinityBits)

/-- R16: `toF64(i)`; zero converts to +0. -/
def toF64 (i : Int) : Word64 := f64Round (decide (i < 0)) i.natAbs 0

/-- R16: `mulF64(x, y)`; `none` when the product is a NaN, whose pattern is free (K1-10). -/
def mulF64 (x y : Word64) : Option Word64 :=
  match f64Unpack x, f64Unpack y with
  | .nan, _ => none
  | _, .nan => none
  | .infinite sx, .infinite sy => some (f64Pattern (sx ^^ sy) f64InfinityBits)
  | .infinite sx, .finite sy my _ => if my = 0 then none else some (f64Pattern (sx ^^ sy) f64InfinityBits)
  | .finite sx mx _, .infinite sy => if mx = 0 then none else some (f64Pattern (sx ^^ sy) f64InfinityBits)
  | .finite sx mx ex, .finite sy my ey => some (f64Round (sx ^^ sy) (mx * my) (ex + ey))

/-- K1-10: a NaN pattern made from a free value: the value itself when it is a NaN, else the value with the exponent bits and the top fraction
bit set. Every NaN pattern is the image of some value. -/
def nanPattern (x : Word64) : Word64 :=
  if f64IsNan x then x else x ||| 0x7FF8000000000000#64

end Sys2Proof.Machine
end

