-- ==== Sys2Proof/Machine/Operands.lean ====
section
/-! DEFINITION. The value forms of 00_scope.md R12, R13 and of the stream's fields (20_memory.md R51 to R53, 42_framer.md R142, R144): pure
functions of bits and bytes. -/

namespace Sys2Proof.Machine

/-- R36, R37: byte i of a buffer. Every use is at an index below the length; the default is never a byte of a buffer. -/
def byteAt (bytes : List Byte) (i : Nat) : Byte := bytes.getD i 0#8

/-- R12: bit number i of a byte sequence, most significant bit of each byte first. -/
def streamBit (bytes : List Byte) (i : Nat) : Bool := (byteAt bytes (i / 8)).getLsbD (7 - i % 8)

/-- R12, R101: the n-bit field that starts at bit position p, first bit most significant. -/
def fieldValue (bit : Nat → Bool) (p : Nat) : Nat → Nat
  | 0 => 0
  | n + 1 => 2 * fieldValue bit p n + (bit (p + n)).toNat

/-- R13: `zext_N(v)` as a 64-bit pattern. -/
def zext64 (v : Nat) : Word64 := BitVec.ofNat 64 v

/-- R13: `mod64(x)`, the 64-bit two's-complement pattern of an integer. -/
def mod64 (x : Int) : Word64 := BitVec.ofInt 64 x

/-- R13, R107: the two's-complement integer of an n-bit field; 0 for n = 0. -/
def signedField (n v : Nat) : Int :=
  if n = 0 then 0 else if v.testBit (n - 1) then (v : Int) - (2 ^ n : Nat) else v

/-- R13: `sext_N(v)` as a 64-bit pattern. -/
def sext64 (n v : Nat) : Word64 := mod64 (signedField n v)

/-- R105: the integer of an n-bit sign-magnitude field; 0 for n = 0. -/
def signMagnitude (n v : Nat) : Int :=
  if n = 0 then 0
  else
    let m : Nat := v % 2 ^ (n - 1)
    if v.testBit (n - 1) then -(m : Int) else m

/-- R142: the reserved bits of the second header byte. -/
def reservedBits (h1 : Byte) : BitVec 6 := h1.extractLsb' 2 6

/-- R53, R142: the length field of the header bytes after the sync byte. -/
def lengthField (h1 h2 : Byte) : BitVec 10 := h1.extractLsb' 0 2 ++ h2

/-- R144: the message number of a payload's first two bytes. -/
def messageNumber (p0 p1 : Byte) : BitVec 12 := p0 ++ p1.extractLsb' 4 4

/-- R52: the 24-bit value of a frame's three CRC bytes, big-endian. -/
def crcField (c0 c1 c2 : Byte) : Crc24 := c0 ++ c1 ++ c2

end Sys2Proof.Machine
end

