-- ==== Sys2Proof/Machine/Ops.lean ====
section
/-! DEFINITION. The named operations over the buffers and registers: the register window (10_state.md R21, 20_memory.md R58, R59), the read
primitive (40_bitreader.md R100, R101), the buffer operations of the framer (42_framer.md R148, R149, R154), and reset (R44, R161). -/

namespace Sys2Proof.Machine

/-! ### Derived registers -/

/-- R26: FLEN, the length of the latched payload. -/
def State.flen (s : State) : BitVec 10 := BitVec.ofNat 10 s.frb.length

/-- R100: `LIM = 8 × FLEN`, the number of readable bits. -/
def State.limit (s : State) : Nat := 8 * s.flen.toNat

/-- R100: bit i of the payload. -/
def State.payloadBit (s : State) (i : Nat) : Bool := streamBit s.frb i

/-- R36, R37: the buffers are within their capacities. -/
abbrev State.buffersWf (s : State) : Prop := s.buf.length ≤ Config.bufCap ∧ s.frb.length ≤ Config.frbCap

/-! ### The bit reader -/

/-- R101: `BRPOS <- BRPOS + n`. -/
def State.advance (s : State) (n : Nat) : State := { s with brpos := s.brpos + BitVec.ofNat 13 n }

/-- R31: `RES <- v`. -/
def State.setRes (s : State) (v : Word64) : State := { s with res := v }

/-- R102: `BRPOS <- 0; BRERR <- 0`. -/
def State.rewind (s : State) : State := { s with brpos := 0#13, brerr := false }

/-- R101: whether `Read(n)` fails. The sum is computed without wrap-around. -/
abbrev State.overruns (s : State) (n : Nat) : Prop := s.brerr = true ∨ s.limit < s.brpos.toNat + n

/-- R101: `Read(n)`: the value of the field at BRPOS and the state with the cursor advanced, or `none` where it fails. -/
def State.readField (s : State) (n : Nat) : Option (Nat × State) :=
  if s.overruns n then none else some (fieldValue s.payloadBit s.brpos.toNat n, s.advance n)

/-- R101: a command that begins with `v <- Read(n)` and goes on as k; where the read fails the command ends with BRERR set. -/
def State.readThen (s : State) (n : Nat) (k : Nat → State → State) : State :=
  match s.readField n with
  | none => s.markOverrun
  | some (v, t) => k v t

/-- K1-10: a product of x and SCALE that is a NaN: a free NaN pattern is written to RES and counted. DESIGN CHOICE (log entry 4): what the pattern
may depend on (`Config.freeNan`) is the model's; a claim may rely only on its being a NaN. -/
def State.setResNan (s : State) (x : Word64) : State :=
  { s with res := nanPattern (Config.freeNan s.unit s.draws x s.scale), draws := s.draws + 1 }

/-- R106, R107: `RES <- bits64(mulF64(x, f64(SCALE)))`. -/
def State.setProduct (s : State) (x : Word64) : State :=
  match mulF64 x s.scale with
  | some b => s.setRes b
  | none => s.setResNan x

/-! ### The buffers -/

/-- R148: `BUF[CNT] <- b; CNT <- CNT + 1`. -/
def State.append (s : State) (b : Byte) : State := { s with buf := s.buf ++ [b] }

/-- R149: `Discard(k)`. -/
def State.discard (s : State) (k : Nat) : State := { s with buf := s.buf.drop k }

/-- R154: `Latch(p, L, f)`. -/
def State.latch (s : State) (p len : Nat) (f : Crc24) : State :=
  { s with
    frb := (s.buf.drop (p + 3)).take len
    msgid := messageNumber (byteAt s.buf (p + 3)) (byteAt s.buf (p + 4))
    fcrc := f
    fvalid := true
    brpos := 0#13
    brerr := false }

/-! ### The checker and SCALE -/

/-- R125, R126: `CRC <- c`. -/
def State.setCrc (s : State) (c : Crc24) : State := { s with crc := c }

/-- R59: `SCALE <- SCALE[63:32] :: v`. -/
def State.setScaleLo (s : State) (v : Word) : State := { s with scale := s.scale.extractLsb' 32 32 ++ v }

/-- R59: `SCALE <- v :: SCALE[31:0]`. -/
def State.setScaleHi (s : State) (v : Word) : State := { s with scale := v ++ s.scale.extractLsb' 0 32 }

/-! ### Reset -/

/-- R161: every piece of the block's state takes its value of R44. The model's own record of the host's run stays (log entry 8). -/
def State.softReset (s : State) : State :=
  { State.reset with client := s.client, pending := s.pending, readback := s.readback, draws := s.draws, unit := s.unit }

/-! ### The register window -/

/-- R21: the sixteen registers of the window. -/
inductive Reg where
  | cmd | status | bufcnt | need | flen | msgid | fcrc | brpos | resLo | resHi | scaleLo | scaleHi | crc | reserved34 | reserved38 | reserved3C
deriving DecidableEq, Repr

/-- R21: the byte offset of a register. -/
def Reg.offset : Reg → Nat
  | .cmd => 0x00
  | .status => 0x04
  | .bufcnt => 0x08
  | .need => 0x0C
  | .flen => 0x10
  | .msgid => 0x14
  | .fcrc => 0x18
  | .brpos => 0x1C
  | .resLo => 0x20
  | .resHi => 0x24
  | .scaleLo => 0x28
  | .scaleHi => 0x2C
  | .crc => 0x30
  | .reserved34 => 0x34
  | .reserved38 => 0x38
  | .reserved3C => 0x3C

/-- R21: the registers in the order of their offsets. -/
def registers : List Reg :=
  [.cmd, .status, .bufcnt, .need, .flen, .msgid, .fcrc, .brpos, .resLo, .resHi, .scaleLo, .scaleHi, .crc, .reserved34, .reserved38, .reserved3C]

/-- R21, R56: the register at a byte offset, where there is one. -/
def regAt (off : Int) : Option Reg := registers.find? fun r => (r.offset : Int) == off

/-- R58: the value `MmioRead` returns. Every register is read at its width of R21, with zeros above it. -/
def State.readReg (s : State) : Reg → Word
  | .cmd => 0#32
  | .status => s.status
  | .bufcnt => (BitVec.ofNat 12 s.cnt).setWidth 32
  | .need => s.need.setWidth 32
  | .flen => s.flen.setWidth 32
  | .msgid => s.msgid.setWidth 32
  | .fcrc => s.fcrc.setWidth 32
  | .brpos => s.brpos.setWidth 32
  | .resLo => s.res.extractLsb' 0 32
  | .resHi => s.res.extractLsb' 32 32
  | .scaleLo => s.scale.extractLsb' 0 32
  | .scaleHi => s.scale.extractLsb' 32 32
  | .crc => s.crc.setWidth 32
  | .reserved34 => 0#32
  | .reserved38 => 0#32
  | .reserved3C => 0#32

/-! ### The host's run (log entries 1 and 2) -/

/-- The access of an agent is taken: it is the block's client from now on, and `rest` are the accesses still to come. -/
def State.taken (s : State) (agent : Nat) (rest : List Access) : State := { s with client := some agent, pending := rest }

/-- R203: a read's value is returned to the host. -/
def State.returned (s : State) (v : Word) : State := { s with readback := s.readback ++ [v] }

/-- The host's next access is placed before those still to come. -/
def State.place (s : State) (a : Access) : State := { s with pending := a :: s.pending }

end Sys2Proof.Machine
end

