-- ==== Sys2Proof/Machine/BitReader.lean ====
section
/-! DEFINITION. The bit-reader commands (40_bitreader.md). -/

namespace Sys2Proof.Machine

/-- R102: REWIND. -/
def execRewind (s : State) : Host.Outcome State Fault Refusal := .next s.rewind

/-- R103: GETU n. -/
def execGetu (n : BitVec 7) (s : State) : Host.Outcome State Fault Refusal :=
  .next (s.readThen n.toNat fun v t => t.setRes (zext64 v))

/-- R104: GETS n. -/
def execGets (n : BitVec 7) (s : State) : Host.Outcome State Fault Refusal :=
  .next (s.readThen n.toNat fun v t => t.setRes (sext64 n.toNat v))

/-- R105: GETSM n. -/
def execGetsm (n : BitVec 7) (s : State) : Host.Outcome State Fault Refusal :=
  .next (s.readThen n.toNat fun v t => t.setRes (mod64 (signMagnitude n.toNat v)))

/-- R106: GETF n. -/
def execGetf (n : BitVec 7) (s : State) : Host.Outcome State Fault Refusal :=
  .next (s.readThen n.toNat fun v t => t.setProduct (toF64 v))

/-- R107: GETFS n. -/
def execGetfs (n : BitVec 7) (s : State) : Host.Outcome State Fault Refusal :=
  .next (s.readThen n.toNat fun v t => t.setProduct (toF64 (signedField n.toNat v)))

/-- R108: SKIP n. RES is not written. -/
def execSkip (n : BitVec 14) (s : State) : Host.Outcome State Fault Refusal :=
  .next (s.readThen n.toNat fun _ t => t)

end Sys2Proof.Machine
end

