-- ==== Sys2Proof/Machine/Crc24Q.lean ====
section
/-! DEFINITION. The CRC-24Q function (41_crc.md R120 to R122), in the bitwise form R121 offers as a definition. -/

namespace Sys2Proof.Machine

/-- R121: one turn of the loop: `c << 1`, with the generator's low 24 bits added when `c[23] = 1`. -/
def crcShift (c : Crc24) : Crc24 :=
  if c.getLsbD 23 then (c <<< 1) ^^^ Config.poly.setWidth 24 else c <<< 1

/-- R121: eight turns. -/
def crcShift8 (c : Crc24) : Crc24 :=
  crcShift (crcShift (crcShift (crcShift (crcShift (crcShift (crcShift (crcShift c)))))))

/-- R121: `Upd(c, b)`. -/
def crcUpd (c : Crc24) (b : Byte) : Crc24 := crcShift8 (c ^^^ (b.setWidth 24 <<< 16))

/-- R121: `CRC24Q(B)`. -/
def crc24q (bytes : List Byte) : Crc24 := bytes.foldl crcUpd 0#24

/-- R122: the table entry `T[i] = Upd(0, i)`. -/
def crcTable (i : Byte) : Crc24 := crcUpd 0#24 i

end Sys2Proof.Machine
end

