-- ==== Sys2Proof/Machine/Checker.lean ====
section
/-! DEFINITION. The standalone CRC-24Q checker (41_crc.md R125 to R127). -/

namespace Sys2Proof.Machine

/-- R125: CRCINIT. CRCM keeps its value. -/
def execCrcinit (s : State) : Host.Outcome State Fault Refusal := .next (s.setCrc 0#24)

/-- R126: CRCBYTE b. -/
def execCrcbyte (b : BitVec 8) (s : State) : Host.Outcome State Fault Refusal := .next (s.setCrc (crcUpd s.crc b))

/-- R127: CRCCHK v. -/
def execCrcchk (v : BitVec 24) (s : State) : Host.Outcome State Fault Refusal := .next (s.setCrcm (s.crc == v))

end Sys2Proof.Machine
end

