-- ==== Sys2Proof/Machine/Control.lean ====
section
/-! DEFINITION. The control commands (43_control.md). -/

namespace Sys2Proof.Machine

/-- R160: NOP. -/
def execNop (s : State) : Host.Outcome State Fault Refusal := .next s

/-- R161: SRST. -/
def execSrst (s : State) : Host.Outcome State Fault Refusal := .next s.softReset

/-- R162: CLRERR. -/
def execClrerr (s : State) : Host.Outcome State Fault Refusal := .next s.clearErrors

end Sys2Proof.Machine
end

