-- ==== Sys2Proof/Machine/Framer.lean ====
section
/-! DEFINITION. The framer commands PUSH and NEXT (42_framer.md). -/

namespace Sys2Proof.Machine

/-- R148: PUSH b. -/
def execPush (b : BitVec 8) (s : State) : Host.Outcome State Fault Refusal :=
  if s.cnt = Config.bufCap then .next s.markOverflow else .next (s.append b)

/-- The exits of NEXT (R150): EMPTY; NEED with its count; FRAME with the payload length and the CRC field. -/
inductive Exit where
  | empty
  | need (k : Nat)
  | frame (len : Nat) (crc : Crc24)
deriving DecidableEq, Repr

/-- R142: L of the header at the front of xs. -/
def headerLength (xs : List Byte) : Nat := (lengthField (byteAt xs 1) (byteAt xs 2)).toNat

/-- R52, R124: the CRC field of the candidate of length len at the front of xs. -/
def trailer (xs : List Byte) (len : Nat) : Crc24 :=
  crcField (byteAt xs (len + 3)) (byteAt xs (len + 4)) (byteAt xs (len + 5))

/-- One pass of R150's loop at a scan position p < CNT, where xs is `BUF[p], ..., BUF[CNT-1]`: the exit taken there, or `none` where the scan
moves on by one byte (R141, R147). -/
def verdict (xs : List Byte) : Option Exit :=
  if byteAt xs 0 ≠ Config.sync then none
  else if xs.length < 3 then some (.need (3 - xs.length))
  else if reservedBits (byteAt xs 1) ≠ 0#6 then none
  else if headerLength xs < Config.minLen then none
  else if xs.length < headerLength xs + 6 then some (.need (headerLength xs + 6 - xs.length))
  else if crc24q (xs.take (headerLength xs + 3)) ≠ trailer xs (headerLength xs) then none
  else some (.frame (headerLength xs) (trailer xs (headerLength xs)))

/-- R150's loop over `BUF[p..]`: how many bytes the scan passes over, and the exit it takes. -/
def scan : List Byte → Nat × Exit
  | [] => (0, .empty)
  | x :: xs =>
    match verdict (x :: xs) with
    | some e => (0, e)
    | none => ((scan xs).1 + 1, (scan xs).2)

/-- R150: what NEXT does at an exit reached at scan position p (R151 to R154). -/
def State.leave (s : State) (p : Nat) : Exit → State
  | .empty => (s.discard p).setExit .empty 0
  | .need k => (s.discard p).setExit .need k
  | .frame len f => ((s.latch p len f).discard (p + len + 6)).setExit .frame 0

/-- R150: NEXT. -/
def execNext (s : State) : Host.Outcome State Fault Refusal :=
  .next (s.leave (scan s.buf).1 (scan s.buf).2)

end Sys2Proof.Machine
end

