-- ==== Sys2Proof/Machine/Dispatch.lean ====
section
/-! DEFINITION. The meaning of every command (30_encoding.md R76, R77): one arm per constructor. -/

namespace Sys2Proof.Machine

def exec (i : Instr) (s : State) : Host.Outcome State Fault Refusal :=
  match i with
  | .nop => Sys2Proof.Machine.execNop s
  | .srst => Sys2Proof.Machine.execSrst s
  | .clrerr => Sys2Proof.Machine.execClrerr s
  | .push b => Sys2Proof.Machine.execPush b s
  | .next => Sys2Proof.Machine.execNext s
  | .rewind => Sys2Proof.Machine.execRewind s
  | .getu n => Sys2Proof.Machine.execGetu n s
  | .gets n => Sys2Proof.Machine.execGets n s
  | .getsm n => Sys2Proof.Machine.execGetsm n s
  | .getf n => Sys2Proof.Machine.execGetf n s
  | .getfs n => Sys2Proof.Machine.execGetfs n s
  | .skip n => Sys2Proof.Machine.execSkip n s
  | .crcinit => Sys2Proof.Machine.execCrcinit s
  | .crcbyte b => Sys2Proof.Machine.execCrcbyte b s
  | .crcchk v => Sys2Proof.Machine.execCrcchk v s

end Sys2Proof.Machine
end

