-- ==== Sys2Proof/Machine/Bus.lean ====
section
/-! DEFINITION. The host register interface (20_memory.md R54 to R65): one access, from the checks of R56 and R65 to its effect (R58, R59,
R77). The block has no program counter and fetches nothing (R39); a command comes to it as a write of CMD. -/

namespace Sys2Proof.Machine

/-- R77: execution of a CMD write of word w. -/
def execute (w : Word) (s : State) : Host.Outcome State Fault Refusal :=
  match decode w with
  | .ok i => exec i s
  | .error _ => .next s.markIllegal

/-- R58: `MmioRead`: the value goes to the host and nothing else changes. -/
def mmioRead (r : Reg) (s : State) : Host.Outcome State Fault Refusal := .next (s.returned (s.readReg r))

/-- R59: `MmioWrite`. A write to a read-only or reserved register is ignored and sets no flag. -/
def mmioWrite (r : Reg) (v : Word) (s : State) : Host.Outcome State Fault Refusal :=
  match r with
  | .cmd => execute v s
  | .scaleLo => .next (s.setScaleLo v)
  | .scaleHi => .next (s.setScaleHi v)
  | .status | .bufcnt | .need | .flen | .msgid | .fcrc | .brpos | .resLo | .resHi | .crc | .reserved34 | .reserved38 | .reserved3C => .next s

/-- R58, R59: what an access does once its register is known. -/
def perform (r : Reg) (k : AccessKind) (s : State) : Host.Outcome State Fault Refusal :=
  match k with
  | .read => mmioRead r s
  | .write v => mmioWrite r v s

/-- R65: the agent is the block's only client so far. -/
abbrev State.serves (s : State) (agent : Nat) : Prop := s.client = none ∨ s.client = some agent

/-- One host access, with `rest` the accesses still to come: refused where the spec says so (R56, R65), else performed whole (R60). -/
def serve (a : Access) (rest : List Access) (s : State) : Host.Outcome State Fault Refusal :=
  if ¬ s.serves a.agent then .refused .secondAgent
  else if a.width ≠ 32 then .refused .accessWidth
  else if a.off % 4 ≠ 0 then .refused .accessMisaligned
  else
    match regAt a.off with
    | none => .refused .accessOutsideWindow
    | some r => perform r a.kind (s.taken a.agent rest)

/-- R10, R14, R62: the access of an agent to a host address, for the n-th instance of the block. -/
def Access.atAddress (n agent addr width : Nat) (k : AccessKind) : Access where
  agent := agent
  off := addr - Config.blockBase n
  width := width
  kind := k

/-- R70, R80: the CMD write of a command word. -/
def Access.command (agent : Nat) (w : Word) : Access where
  agent := agent
  off := Reg.cmd.offset
  width := 32
  kind := .write w

end Sys2Proof.Machine
end

