-- ==== Sys2Proof/Machine/Step.lean ====
section
/-! DEFINITION. One step of the machine: the host's next access (00_scope.md R4, 20_memory.md R60, R64). -/

namespace Sys2Proof.Machine

/-- R4, R60, R64: the oldest access not yet taken is served whole. With no access to serve the block is idle and keeps its state (R183). -/
def step (s : State) : Host.Outcome State Fault Refusal :=
  match s.pending with
  | [] => .next s
  | a :: rest => serve a rest s

/-- s with the host's next access the CMD write of the word w (R70), made by the block's client where it has one. The block fetches no
instruction (R39, R68): this stands for the host issuing the command (log entry 1). -/
def State.withFetchWord (s : State) (nbits w : Nat) : State :=
  s.place (Access.command (s.client.getD 0) (BitVec.ofNat 32 (w % 2 ^ nbits)))

end Sys2Proof.Machine
end

