-- ==== Sys2Proof/Machine/Assembler.lean ====
section
/-! DEFINITION. The host program notation (30_encoding.md R80, R81, 92_eei_decisions.md D35): a line of text, the accesses it stands for, and
the rejection of operands out of range. The notation has no effect on the block. -/

namespace Sys2Proof.Machine

/-- R81: the operand of SETSCALE: a 64-bit pattern, or the decimal number `(-1)^neg * digits / 10^places`. -/
inductive ScaleLiteral where
  | pattern (x : Nat)
  | decimal (neg : Bool) (digits places : Nat)
deriving DecidableEq, Repr

/-- R80, R81: one line of a host program, with its operands as written. -/
inductive Line where
  | command (mnemonic : String) (operand : Option Nat)
  | wr (r : Reg) (value : Nat)
  | rd (r : Reg)
  | feed (bytes : List Nat)
  | setScale (x : ScaleLiteral)
  | rdres
  | crcof (bytes : List Nat)
  | peekid
deriving DecidableEq, Repr

/-- R80: the operand's range. -/
def below (bound : Nat) (v : Nat) : Option Nat := if v < bound then some v else none

/-- R80: the command of a mnemonic and its operand; `none` where the assembler rejects it. -/
def assembleCommand (mnemonic : String) (operand : Option Nat) : Option Instr :=
  match operand with
  | none =>
    if mnemonic = "NOP" then some .nop
    else if mnemonic = "SRST" then some .srst
    else if mnemonic = "CLRERR" then some .clrerr
    else if mnemonic = "NEXT" then some .next
    else if mnemonic = "REWIND" then some .rewind
    else if mnemonic = "CRCINIT" then some .crcinit
    else none
  | some v =>
    if mnemonic = "PUSH" then (below 256 v).map fun b => .push (BitVec.ofNat 8 b)
    else if mnemonic = "GETU" then (below 65 v).map fun n => .getu (BitVec.ofNat 7 n)
    else if mnemonic = "GETS" then (below 65 v).map fun n => .gets (BitVec.ofNat 7 n)
    else if mnemonic = "GETSM" then (below 65 v).map fun n => .getsm (BitVec.ofNat 7 n)
    else if mnemonic = "GETF" then (below 65 v).map fun n => .getf (BitVec.ofNat 7 n)
    else if mnemonic = "GETFS" then (below 65 v).map fun n => .getfs (BitVec.ofNat 7 n)
    else if mnemonic = "SKIP" then (below 16384 v).map fun n => .skip (BitVec.ofNat 14 n)
    else if mnemonic = "CRCBYTE" then (below 256 v).map fun b => .crcbyte (BitVec.ofNat 8 b)
    else if mnemonic = "CRCCHK" then (below (2 ^ 24) v).map fun c => .crcchk (BitVec.ofNat 24 c)
    else none

/-- R80: the operand a command is written with: a byte, a width, a count or a 24-bit value, or none. -/
def operandOf : Instr → Option Nat
  | .nop | .srst | .clrerr | .next | .rewind | .crcinit => none
  | .push b | .crcbyte b => some b.toNat
  | .getu n | .gets n | .getsm n | .getf n | .getfs n => some n.toNat
  | .skip n => some n.toNat
  | .crcchk v => some v.toNat

/-- R14: an aligned 32-bit access of a register. -/
def regAccess (agent : Nat) (r : Reg) (k : AccessKind) : Access where
  agent := agent
  off := r.offset
  width := 32
  kind := k

/-- R80: the CMD write of a command. -/
def commandAccess (agent : Nat) (i : Instr) : Access := Access.command agent (encode i)

/-- R81: the binary64 pattern of SETSCALE's operand. A decimal literal is converted exactly: one that no binary64 number equals is rejected
(log entry 12). -/
def scalePattern : ScaleLiteral → Option Word64
  | .pattern x => (below (2 ^ 64) x).map (BitVec.ofNat 64)
  | .decimal neg digits places =>
    if digits % 5 ^ places ≠ 0 then none
    else
      let r := f64Round neg (digits / 5 ^ places) (-places)
      match f64Unpack r with
      | .finite _ m e => if m * 2 ^ (e + 1074).toNat * 2 ^ places = digits / 5 ^ places * 2 ^ 1074 then some r else none
      | .infinite _ => none
      | .nan => none

/-- R80, R81: the host accesses a line stands for, in order. -/
def assemble (agent : Nat) : Line → Option (List Access)
  | .command m x => (assembleCommand m x).map fun i => [commandAccess agent i]
  | .wr r v => (below (2 ^ 32) v).map fun v => [regAccess agent r (.write (BitVec.ofNat 32 v))]
  | .rd r => some [regAccess agent r .read]
  | .feed bs => bs.mapM fun b => (assembleCommand "PUSH" (some b)).map (commandAccess agent)
  | .setScale x => (scalePattern x).map fun p =>
      [regAccess agent .scaleLo (.write (p.extractLsb' 0 32)), regAccess agent .scaleHi (.write (p.extractLsb' 32 32))]
  | .rdres => some [regAccess agent .resLo .read, regAccess agent .resHi .read]
  | .crcof bs => (bs.mapM fun b => (assembleCommand "CRCBYTE" (some b)).map (commandAccess agent)).map
      (commandAccess agent .crcinit :: ·)
  | .peekid => some [regAccess agent .msgid .read]

/-- R81: the result of RDRES from the values of its two reads. -/
def rdresValue (lo hi : Word) : Word64 := hi ++ lo

/-! ### Text -/

/-- R21: the name of a register; the reserved offsets have none. -/
def Reg.name : Reg → Option String
  | .cmd => some "CMD"
  | .status => some "STATUS"
  | .bufcnt => some "BUFCNT"
  | .need => some "NEED"
  | .flen => some "FLEN"
  | .msgid => some "MSGID"
  | .fcrc => some "FCRC"
  | .brpos => some "BRPOS"
  | .resLo => some "RES_LO"
  | .resHi => some "RES_HI"
  | .scaleLo => some "SCALE_LO"
  | .scaleHi => some "SCALE_HI"
  | .crc => some "CRC"
  | .reserved34 => none
  | .reserved38 => none
  | .reserved3C => none

/-- R80: the register a name stands for. -/
def regNamed (name : String) : Option Reg := registers.find? fun r => r.name == some name

/-- The value of a digit in a base of at most 16. -/
def digitValue (base : Nat) (c : Char) : Option Nat :=
  let n := c.toNat
  let v := if 48 ≤ n ∧ n ≤ 57 then n - 48 else if 65 ≤ n ∧ n ≤ 70 then n - 55 else if 97 ≤ n ∧ n ≤ 102 then n - 87 else base
  below base v

/-- A non-empty run of digits. -/
def digitsValue (base : Nat) (cs : List Char) : Option Nat :=
  if cs = [] then none else cs.foldlM (fun acc c => (digitValue base c).map (acc * base + ·)) 0

/-- R80: a decimal number, or a hexadecimal one with `0x`. -/
def numberValue : List Char → Option Nat
  | '0' :: 'x' :: cs => digitsValue 16 cs
  | cs => digitsValue 10 cs

/-- R80: the line without its comment, which starts with `--` or `;`. -/
def stripComment : List Char → List Char
  | [] => []
  | ';' :: _ => []
  | '-' :: '-' :: _ => []
  | c :: cs => c :: stripComment cs

/-- The words of a line, separated by spaces, tabs and commas (log entry 12); `word` is the word being read. -/
def splitWords (word : List Char) : List Char → List (List Char)
  | [] => if word = [] then [] else [word]
  | c :: cs =>
    if c = ' ' ∨ c = '\t' ∨ c = ',' then (if word = [] then [] else [word]) ++ splitWords [] cs
    else splitWords (word ++ [c]) cs

/-- R81: a decimal literal without its sign is digits, a point and digits. -/
def decimalLiteral (neg : Bool) (cs : List Char) : Option ScaleLiteral :=
  let whole := cs.takeWhile (· ≠ '.')
  let part := (cs.dropWhile (· ≠ '.')).drop 1
  if part = [] then none else (digitsValue 10 (whole ++ part)).map fun d => .decimal neg d part.length

/-- R81: SETSCALE's operand: a number is a pattern, a decimal literal has a point (log entry 12). -/
def scaleLiteral : List Char → Option ScaleLiteral
  | '-' :: cs => decimalLiteral true cs
  | cs => if '.' ∈ cs then decimalLiteral false cs else (numberValue cs).map .pattern

/-- R80, R81: the line that a list of words spells; `none` for a line with no words or that spells none. -/
def lineOfWords : List (List Char) → Option Line
  | [] => none
  | w :: ws =>
    match String.ofList w, ws with
    | "WR", [r, v] => do some (.wr (← regNamed (String.ofList r)) (← numberValue v))
    | "RD", [r] => (regNamed (String.ofList r)).map .rd
    | "FEED", b :: bs => ((b :: bs).mapM numberValue).map .feed
    | "SETSCALE", [x] => (scaleLiteral x).map .setScale
    | "RDRES", [] => some .rdres
    | "CRCOF", b :: bs => ((b :: bs).mapM numberValue).map .crcof
    | "PEEKID", [] => some .peekid
    | m, [] => some (.command m none)
    | m, [x] => (numberValue x).map fun v => .command m (some v)
    | _, _ => none

/-- R80: the accesses of one line of text; a blank line or a comment stands for none. -/
def assembleText (agent : Nat) (text : String) : Option (List Access) :=
  match splitWords [] (stripComment text.toList) with
  | [] => some []
  | ws => (lineOfWords ws).bind (assemble agent)

/-- R80: a host program, one line of text after the other. -/
def assembleProgram (agent : Nat) (lines : List String) : Option (List Access) :=
  (lines.mapM (assembleText agent)).map List.flatten

end Sys2Proof.Machine
end

