-- ==== Sys2Proof/Machine/Platform.lean ====
section
/-! DEFINITION. Several instances of the block on one platform (60_exceptions.md R181): each has its own copy of every piece of state. -/

namespace Sys2Proof.Machine

/-- R181: the instances of the block, in the order of their numbers (`Config.blockBase`). -/
structure Platform where
  instances : List State
deriving DecidableEq, Repr

/-- R181: one step of the k-th instance; a number that names no instance steps nothing. -/
def Platform.step (k : Nat) (p : Platform) : Host.Outcome Platform Fault Refusal :=
  match p.instances[k]? with
  | none => .next p
  | some s =>
    match Sys2Proof.Machine.step s with
    | .next t => .next { instances := p.instances.set k t }
    | .fault f => .fault f
    | .refused r => .refused r

/-- R190, R181: n instances after power-on reset, each with its own number (log entry 14). -/
def Platform.reset (n : Nat) : Platform where
  instances := (List.range n).map fun k => { State.reset with unit := k }

end Sys2Proof.Machine
end

