-- ==== Sys2Proof/Safety.lean ====
section
/-! DEFINITION. The terms claims are stated in: the invariant of 10_state.md R38, the spec's own index forms of a candidate frame (R142 to
R147), R12's sum, R120's polynomials, nearest-even rounding (R16), and a host that feeds a stream (R157). -/

namespace Sys2Proof.Machine

/-! ### The block's invariant -/

/-- R38, with the ranges of R25 and R26. -/
def State.Inv (s : State) : Prop :=
  (s.cnt ≤ 2048 ∧ s.frb.length ≤ 1023) ∧
  (s.fvalid = false → s.flen = 0#10 ∧ s.frb = [] ∧ s.msgid = 0#12 ∧ s.fcrc = 0#24) ∧
  (s.fvalid = true → (2 ≤ s.flen.toNat ∧ s.flen.toNat ≤ 1023) ∧ s.msgid = byteAt s.frb 0 ++ (byteAt s.frb 1).extractLsb' 4 4 ∧
    s.fcrc = crc24q ([0xD3#8, (s.flen.extractLsb' 8 2).setWidth 8, s.flen.extractLsb' 0 8] ++ s.frb)) ∧
  s.brpos.toNat ≤ 8 * s.flen.toNat ∧
  (s.need ≠ 0#11 → s.last = .need) ∧ (s.last = .need → 1 ≤ s.need.toNat ∧ s.need.toNat ≤ 1026) ∧
  (s.full = true ↔ s.cnt = 2048)

/-- The fields that record the host's run and the instance's number, which no command writes (log entries 1, 2 and 14). -/
def SameRun (s t : State) : Prop := t.client = s.client ∧ t.pending = s.pending ∧ t.readback = s.readback ∧ t.unit = s.unit

/-- The latched frame and the bit reader's place in it (R37, R197). -/
def SameFrame (s t : State) : Prop :=
  t.fvalid = s.fvalid ∧ t.frb = s.frb ∧ t.msgid = s.msgid ∧ t.fcrc = s.fcrc

/-- R59: an access the interface defines: 32 bits wide at the offset of a register (R56). -/
def Access.Defined (a : Access) : Prop := a.width = 32 ∧ ∃ r : Reg, a.off = r.offset

/-! ### The bit reader -/

/-- R12: the sum over the bits of the payload, the first bit with the greatest weight. -/
def fieldSum (s : State) (p n : Nat) : Nat :=
  ∑ k ∈ Finset.range n, ((byteAt s.frb ((p + k) / 8)).getLsbD (7 - (p + k) % 8)).toNat * 2 ^ (n - 1 - k)

/-- R101: the negation of `Read(n)`'s failure condition. -/
abbrev Fits (s : State) (n : Nat) : Prop := s.brerr = false ∧ s.brpos.toNat + n ≤ 8 * s.flen.toNat

/-- R104, R107: the integer of an n-bit two's-complement field of value v. -/
def twosComplement (n v : Nat) : Int := if n ≠ 0 ∧ 2 ^ (n - 1) ≤ v then (v : Int) - 2 ^ n else v

/-- R105: the integer of an n-bit sign-magnitude field of value v. -/
def signedMagnitude (n v : Nat) : Int :=
  if n = 0 then 0 else if 2 ^ (n - 1) ≤ v then -((v : Int) - 2 ^ (n - 1)) else v

/-- The commands of 40_bitreader.md that begin with `Read(n)`, with their n (R101). -/
def Reads : Instr → Nat → Prop
  | .getu n, k | .gets n, k | .getsm n, k | .getf n, k | .getfs n, k => k = n.toNat
  | .skip n, k => k = n.toNat
  | .nop, _ | .srst, _ | .clrerr, _ | .push _, _ | .next, _ | .rewind, _ | .crcinit, _ | .crcbyte _, _ | .crcchk _, _ => False

/-! ### Binary64 -/

/-- R16: the number a finite pattern stands for; 0 for the others. -/
def f64Value (b : Word64) : ℚ :=
  match f64Unpack b with
  | .finite neg m e => (if neg then -1 else 1) * m * 2 ^ e
  | .infinite _ => 0
  | .nan => 0

/-- R16: the pattern stands for a finite number. -/
def f64IsFinite (b : Word64) : Bool := f64Exponent b != 0x7FF#11

/-- R16: the pattern is an infinity. -/
def f64IsInfinite (b : Word64) : Bool := f64Exponent b == 0x7FF#11 && f64Fraction b == 0#52

/-- R16, GK-2: r is x rounded to nearest, ties to even: below the overflow threshold a nearest finite number, with an even last place where two are
nearest; from the threshold on the infinity of x's sign. -/
def RoundsTo (x : ℚ) (r : Word64) : Prop :=
  (|x| < (2 ^ 54 - 1) * 2 ^ 970 →
    f64IsFinite r = true ∧ ∀ y : Word64, f64IsFinite y = true →
      |x - f64Value r| ≤ |x - f64Value y| ∧
      (|x - f64Value r| = |x - f64Value y| → f64Value y ≠ f64Value r → r.getLsbD 0 = false)) ∧
  ((2 ^ 54 - 1) * 2 ^ 970 ≤ |x| → f64IsInfinite r = true ∧ f64Sign r = decide (x < 0))

/-! ### CRC-24Q as a polynomial remainder -/

/-- R120: the generator G(x). -/
noncomputable def generator : Polynomial (ZMod 2) :=
  .X ^ 24 + .X ^ 23 + .X ^ 18 + .X ^ 17 + .X ^ 14 + .X ^ 11 + .X ^ 10 + .X ^ 7 + .X ^ 6 + .X ^ 5 + .X ^ 4 + .X ^ 3 + .X + 1

/-- R120: M(x), whose highest coefficient is the first bit of the bytes. -/
noncomputable def messagePolynomial (bytes : List Byte) : Polynomial (ZMod 2) :=
  ∑ j ∈ Finset.range (8 * bytes.length), if streamBit bytes j then .X ^ (8 * bytes.length - 1 - j) else 0

/-- R120: a 24-bit number read as a polynomial: bit i is the coefficient of x^i. -/
noncomputable def crcPolynomial (c : Crc24) : Polynomial (ZMod 2) :=
  ∑ i ∈ Finset.range 24, if c.getLsbD i then .X ^ i else 0

/-! ### Candidates in the input buffer, by index -/

/-- R142: L of a candidate at p. -/
def lengthAt (buf : List Byte) (p : Nat) : Nat := ((byteAt buf (p + 1)).extractLsb' 0 2 ++ byteAt buf (p + 2)).toNat

/-- R124, R52: the CRC field of a candidate at p. -/
def trailerAt (buf : List Byte) (p : Nat) : Crc24 :=
  byteAt buf (p + lengthAt buf p + 3) ++ byteAt buf (p + lengthAt buf p + 4) ++ byteAt buf (p + lengthAt buf p + 5)

/-- R143: the header at p is valid. -/
abbrev HeaderValidAt (buf : List Byte) (p : Nat) : Prop :=
  (byteAt buf (p + 1)).extractLsb' 2 6 = 0#6 ∧ 2 ≤ lengthAt buf p

/-- R124: the CRC check of the candidate at p. -/
abbrev CrcPassesAt (buf : List Byte) (p : Nat) : Prop :=
  crc24q ((buf.drop p).take (lengthAt buf p + 3)) = trailerAt buf p

/-- R141, R147: the scan moves on from p by one byte: no sync byte; or all 3 header bytes are there and are invalid; or all L + 6 bytes are there
and fail the CRC check. -/
abbrev RejectedAt (buf : List Byte) (p : Nat) : Prop :=
  byteAt buf p ≠ 0xD3#8 ∨
  (p + 3 ≤ buf.length ∧ ¬ HeaderValidAt buf p) ∨
  (p + 3 ≤ buf.length ∧ HeaderValidAt buf p ∧ p + lengthAt buf p + 6 ≤ buf.length ∧ ¬ CrcPassesAt buf p)

/-- R150: the scan reaches p: every position before it is rejected. -/
abbrev ScanReaches (buf : List Byte) (p : Nat) : Prop := p < buf.length ∧ ∀ i < p, RejectedAt buf i

/-- R152: at p, a sync byte with fewer than 3 bytes. -/
abbrev ShortHeaderAt (buf : List Byte) (p : Nat) : Prop := byteAt buf p = 0xD3#8 ∧ buf.length < p + 3

/-- R153: at p, a sync byte and a valid header with fewer than L + 6 bytes. -/
abbrev ShortFrameAt (buf : List Byte) (p : Nat) : Prop :=
  byteAt buf p = 0xD3#8 ∧ p + 3 ≤ buf.length ∧ HeaderValidAt buf p ∧ buf.length < p + lengthAt buf p + 6

/-- R145: the frame at p is accepted. -/
abbrev AcceptedAt (buf : List Byte) (p : Nat) : Prop :=
  byteAt buf p = 0xD3#8 ∧ HeaderValidAt buf p ∧ p + lengthAt buf p + 6 ≤ buf.length ∧ CrcPassesAt buf p

/-! ### A host that feeds a stream -/

/-- R157: what a yielded frame shows: FLEN, FRB, MSGID, FCRC. -/
structure Yielded where
  flen : BitVec 10
  frb : List Byte
  msgid : BitVec 12
  fcrc : Crc24
deriving DecidableEq, Repr

/-- R157: the frame latched in a state. -/
def State.yielded (s : State) : Yielded := ⟨s.flen, s.frb, s.msgid, s.fcrc⟩

/-- R157: the two things the host does with the framer. -/
inductive Move where
  | push (b : Byte)
  | next
deriving DecidableEq, Repr

/-- R157: the frames a host sees along a sequence of moves, and the state it ends in. -/
def runMoves : List Move → State → List Yielded × State
  | [], s => ([], s)
  | .push b :: ms, s =>
    match exec (.push b) s with
    | .next t => runMoves ms t
    | .fault _ => ([], s)
    | .refused _ => ([], s)
  | .next :: ms, s =>
    match exec .next s with
    | .next t => (if t.last = .frame then t.yielded :: (runMoves ms t).1 else (runMoves ms t).1, (runMoves ms t).2)
    | .fault _ => ([], s)
    | .refused _ => ([], s)

/-- R157: the bytes a sequence of moves pushes, in order. -/
def pushedBytes : List Move → List Byte
  | [] => []
  | .push b :: ms => b :: pushedBytes ms
  | .next :: ms => pushedBytes ms

/-- R157: the host never PUSHes while FULL = 1, along the run of its moves. -/
def neverPushesFull : List Move → State → Bool
  | [], _ => true
  | .push b :: ms, s =>
    !s.full &&
      match exec (.push b) s with
      | .next t => neverPushesFull ms t
      | .fault _ => false
      | .refused _ => false
  | .next :: ms, s =>
    match exec .next s with
    | .next t => neverPushesFull ms t
    | .fault _ => false
    | .refused _ => false

/-- R157: after its last PUSH the host issues NEXT until LAST ≠ FRAME. -/
def drains (ms : List Move) (s : State) : Prop := ms.getLast? = some .next ∧ (runMoves ms s).2.last ≠ .frame

end Sys2Proof.Machine
end

