-- ==== Sys2Proof/Certificates/Slice0/Obligations.lean ====
section
/-! DEFINITION. The statements for the provers, each a rule of spec/ or a law derived from its rules. -/

open Sys2Proof Sys2Proof.Machine

/-! ### Encoding (30_encoding.md) -/

/-- R70 to R76: decoding the word of a well-formed command gives the command back, at every value of its operand. -/
def Obligations.DecodeInvertsEncode : Prop :=
  ∀ i : Instr, i.WellFormed → decode (encode i) = .ok i

/-- R70 to R77, R79: a word that decodes is the one word of a well-formed command. -/
def Obligations.EncodeInvertsDecode : Prop :=
  ∀ (w : Word) (i : Instr), decode w = .ok i → encode i = w ∧ i.WellFormed

/-- R76: a word decodes to a command of a row's mnemonic exactly when `(w AND mask) = match` and the extra condition holds, and at most one row
matches any word. -/
def Obligations.WordSelectsItsTableRow : Prop :=
  (∀ (w : Word) (name : String),
    (∃ i, decode w = .ok i ∧ i.mnemonic = name) ↔
      ∃ r ∈ opcodeTable, r.mnemonic = name ∧ w &&& r.mask = r.code ∧ (r.format = .W → (w.extractLsb' 0 7).toNat ≤ 64)) ∧
  (∀ (w : Word), ∀ r ∈ opcodeTable, ∀ r' ∈ opcodeTable, r.selectedBy w → r'.selectedBy w → r = r')

/-- R77: a word that selects no row sets ILL and changes nothing else; a word that selects a row is performed; a word is illegal in exactly the
cases (a), (b) and (c). -/
def Obligations.IllegalWordSetsOnlyIll : Prop :=
  ∀ (w : Word) (s : State),
    (∀ i, decode w = .ok i → execute w s = exec i s) ∧
    ((∀ r ∈ opcodeTable, ¬ r.selectedBy w) → execute w s = .next { s with ill := true }) ∧
    ((∀ r ∈ opcodeTable, ¬ r.selectedBy w) ↔
      (∀ r ∈ opcodeTable, r.code.extractLsb' 24 8 ≠ w.extractLsb' 24 8) ∨
      (∃ r ∈ opcodeTable, r.code.extractLsb' 24 8 = w.extractLsb' 24 8 ∧ w &&& r.mask ≠ r.code) ∨
      (∃ r ∈ opcodeTable, r.format = .W ∧ w &&& r.mask = r.code ∧ 65 ≤ (w.extractLsb' 0 7).toNat))

/-- R78: the reserved opcodes are illegal at every operand field, and their words are not NOPs: they set ILL. -/
def Obligations.ReservedOpcodesAreIllegal : Prop :=
  ∀ (opc : BitVec 8) (arg : BitVec 24) (s : State),
    ((0x03 ≤ opc.toNat ∧ opc.toNat ≤ 0x0F) ∨ (0x12 ≤ opc.toNat ∧ opc.toNat ≤ 0x1F) ∨ (0x27 ≤ opc.toNat ∧ opc.toNat ≤ 0x2F) ∨
      0x33 ≤ opc.toNat) →
    (∀ i, decode (opc ++ arg) ≠ .ok i) ∧ execute (opc ++ arg) s = .next { s with ill := true }

/-- 30_encoding.md, "Encoding examples": the words written there decode to the commands beside them, and the illegal ones to none. -/
def Obligations.SpecEncodingExamplesDecode : Prop :=
  decode 0x00000000#32 = .ok .nop ∧ decode 0x01000000#32 = .ok .srst ∧ decode 0x100000D3#32 = .ok (.push 0xD3#8) ∧
  decode 0x11000000#32 = .ok .next ∧ decode 0x2100000C#32 = .ok (.getu 12#7) ∧ decode 0x22000040#32 = .ok (.gets 64#7) ∧
  decode 0x2300001B#32 = .ok (.getsm 27#7) ∧ decode 0x2400000A#32 = .ok (.getf 10#7) ∧ decode 0x26000004#32 = .ok (.skip 4#14) ∧
  decode 0x32CDE703#32 = .ok (.crcchk 0xCDE703#24) ∧
  decode 0x22000041#32 = .error .widthOutOfRange ∧ decode 0x11000001#32 = .error .reservedOperandBit ∧
  decode 0x10000100#32 = .error .reservedOperandBit ∧ decode 0x40000000#32 = .error .reservedOpcode

/-! ### The host interface (20_memory.md) -/

/-- R59, R60, R77: a step whose next access is a CMD write of a word is exactly the command the word decodes to, on the state with that access
taken; where it decodes to none the step sets ILL. -/
def Obligations.StepRunsTheCommandWritten : Prop :=
  ∀ (s : State) (agent : Nat) (rest : List Access) (w : Word), s.serves agent →
    s.pending = { agent := agent, off := 0, width := 32, kind := .write w } :: rest →
    (∀ i, decode w = .ok i → i.WellFormed ∧ step s = exec i { s with client := some agent, pending := rest }) ∧
    (∀ e, decode w = .error e → step s = .next { s with client := some agent, pending := rest, ill := true })

/-- R58: a read returns the register's value to the host and changes no other state; CMD and the reserved offsets read 0. -/
def Obligations.ReadsChangeNoState : Prop :=
  ∀ (s : State) (agent : Nat) (rest : List Access) (r : Reg), s.serves agent →
    s.pending = { agent := agent, off := r.offset, width := 32, kind := .read } :: rest →
    step s = .next { s with client := some agent, pending := rest, readback := s.readback ++ [s.readReg r] } ∧
    s.readReg .cmd = 0#32 ∧ s.readReg .reserved34 = 0#32 ∧ s.readReg .reserved38 = 0#32 ∧ s.readReg .reserved3C = 0#32

/-- R21, R24 to R29, R31, R33, R35: at each offset of the window the register of that offset reads its value, with zeros above its width. -/
def Obligations.RegisterMapReadsItsFields : Prop :=
  ∀ s : State, s.buf.length ≤ 2048 → s.frb.length ≤ 1023 →
    ∀ entry ∈ [((0x00 : Int), 0), (0x04, s.status.toNat), (0x08, s.buf.length), (0x0C, s.need.toNat), (0x10, s.frb.length), (0x14, s.msgid.toNat),
        (0x18, s.fcrc.toNat), (0x1C, s.brpos.toNat), (0x20, s.res.toNat % 2 ^ 32), (0x24, s.res.toNat / 2 ^ 32),
        (0x28, s.scale.toNat % 2 ^ 32), (0x2C, s.scale.toNat / 2 ^ 32), (0x30, s.crc.toNat), (0x34, 0), (0x38, 0), (0x3C, 0)],
      ∃ r, regAt entry.1 = some r ∧ (s.readReg r).toNat = entry.2

/-- R22, R23: the fields of STATUS at their bits. -/
def Obligations.StatusFieldsAtTheirBits : Prop :=
  ∀ s : State,
    ((s.last = .none → s.status.extractLsb' 0 2 = 0#2) ∧ (s.last = .frame → s.status.extractLsb' 0 2 = 1#2) ∧
      (s.last = .need → s.status.extractLsb' 0 2 = 2#2) ∧ (s.last = .empty → s.status.extractLsb' 0 2 = 3#2)) ∧
    s.status.getLsbD 2 = s.fvalid ∧ s.status.getLsbD 3 = s.brerr ∧ s.status.getLsbD 4 = s.crcm ∧ s.status.getLsbD 5 = s.ill ∧
    s.status.getLsbD 6 = s.ovf ∧ s.status.getLsbD 7 = decide (s.buf.length = 2048) ∧ s.status.extractLsb' 8 24 = 0#24

/-- R59: a write at 0x00 executes the word, one at 0x28 or 0x2C replaces that half of SCALE, and every other write has no effect. -/
def Obligations.WritesReachOnlyCmdAndScale : Prop :=
  ∀ (s : State) (agent : Nat) (rest : List Access) (r : Reg) (v : Word), s.serves agent →
    s.pending = { agent := agent, off := r.offset, width := 32, kind := .write v } :: rest →
    (r.offset = 0x00 → step s = execute v { s with client := some agent, pending := rest }) ∧
    (r.offset = 0x28 →
      ∃ x, step s = .next { s with client := some agent, pending := rest, scale := x } ∧
        x.extractLsb' 32 32 = s.scale.extractLsb' 32 32 ∧ x.extractLsb' 0 32 = v) ∧
    (r.offset = 0x2C →
      ∃ x, step s = .next { s with client := some agent, pending := rest, scale := x } ∧
        x.extractLsb' 32 32 = v ∧ x.extractLsb' 0 32 = s.scale.extractLsb' 0 32) ∧
    (r.offset ≠ 0x00 ∧ r.offset ≠ 0x28 ∧ r.offset ≠ 0x2C → step s = .next { s with client := some agent, pending := rest })

/-- R33, R54: two writes, one to each half and in either order, leave SCALE the 64-bit value of the two words, which the two registers read back. -/
def Obligations.ScaleHalvesWriteInEitherOrder : Prop :=
  ∀ (s : State) (lo hi : Word),
    ∃ t u t' u', mmioWrite .scaleLo lo s = .next t ∧ mmioWrite .scaleHi hi t = .next u ∧
      mmioWrite .scaleHi hi s = .next t' ∧ mmioWrite .scaleLo lo t' = .next u' ∧
      u = { s with scale := BitVec.ofNat 64 (hi.toNat * 2 ^ 32 + lo.toNat) } ∧ u' = u ∧
      u.readReg .scaleLo = lo ∧ u.readReg .scaleHi = hi

/-- R56: an access of the block's client is served exactly when it is 32 bits wide, at a multiple of 4, inside the 64 bytes of the window; any other
is refused. -/
def Obligations.UndefinedAccessesAreRefused : Prop :=
  ∀ (s : State) (a : Access) (rest : List Access), s.serves a.agent → s.pending = a :: rest →
    ((a.width = 32 ∧ a.off % 4 = 0 ∧ 0 ≤ a.off ∧ a.off < 0x40) → ∃ t, step s = .next t) ∧
    (¬ (a.width = 32 ∧ a.off % 4 = 0 ∧ 0 ≤ a.off ∧ a.off < 0x40) →
      step s = .refused .accessWidth ∨ step s = .refused .accessMisaligned ∨ step s = .refused .accessOutsideWindow)

/-- R65: an access of another agent, right after one that was served, is refused, whatever the served access did. -/
def Obligations.SecondAgentIsRefused : Prop :=
  ∀ (s t : State) (a b : Access) (rest : List Access), a.agent ≠ b.agent → s.pending = a :: b :: rest → step s = .next t →
    t.pending = b :: rest ∧ step t = .refused .secondAgent

/-- R4, R60, R64, R203: a host whose accesses are all defined ones of one agent has them all served, one a step, and gets one value for each read. -/
def Obligations.DefinedAccessesAllComplete : Prop :=
  ∀ (s : State) (agent : Nat), s.serves agent → (∀ a ∈ s.pending, a.agent = agent ∧ a.Defined) →
    ∃ t : State, Host.Core.run Sys2Proof.core s.pending.length s = .next t ∧ t.pending = [] ∧
      t.readback.length = s.readback.length + (s.pending.filter fun a => decide (a.kind = .read)).length

/-- R4, R173, R183: with no host access to serve, a step leaves every piece of state as it is. -/
def Obligations.IdleBlockKeepsItsState : Prop :=
  ∀ s : State, s.pending = [] → step s = .next s

/-- R60, R170, R175: every command completes, whatever the state, and none changes the record of the host's run or the instance's number (the model's
own fields, log entries 1, 2 and 14). -/
def Obligations.EveryCommandCompletes : Prop :=
  ∀ (i : Instr) (s : State), ∃ t, exec i s = .next t ∧ SameRun s t

/-- R181: stepping the k-th instance of a platform has the outcome that `step` has on that instance alone: where `step` answers a next state, that is
the instance's next state and no other instance changes; where `step` refuses, so does the platform. So the outcome is the same on any two platforms
whose k-th instances are equal. A number that names no instance steps nothing. (Each instance keeps its number: log entry 14.) -/
def Obligations.InstancesShareNothing : Prop :=
  ∀ (k : Nat) (p q : Platform), p.instances[k]? = q.instances[k]? →
    (∀ s, p.instances[k]? = some s →
      (∀ t, step s = .next t → t.unit = s.unit ∧ ∃ p' q', p.step k = .next p' ∧ q.step k = .next q' ∧
        p'.instances[k]? = some t ∧ q'.instances[k]? = some t ∧ p'.instances.length = p.instances.length ∧
        ∀ j, j ≠ k → p'.instances[j]? = p.instances[j]?) ∧
      (∀ r, step s = .refused r → p.step k = .refused r ∧ q.step k = .refused r)) ∧
    (p.instances[k]? = none → p.step k = .next p ∧ q.step k = .next q)

/-- R80: the assembler accepts every legal line and encodes only legal words: the mnemonic and operand of any well-formed command are assembled to
that command, as one CMD write of its word; a line it accepts is the command of its mnemonic with the operand written; operands out of range are
rejected. -/
def Obligations.AssemblerEncodesOnlyLegalWords : Prop :=
  (∀ (i : Instr), i.WellFormed → assembleCommand i.mnemonic (operandOf i) = some i ∧
    ∀ agent, assemble agent (.command i.mnemonic (operandOf i)) =
      some [{ agent := agent, off := 0, width := 32, kind := .write (encode i) }]) ∧
  (∀ (m : String) (x : Option Nat) (i : Instr), assembleCommand m x = some i →
    i.mnemonic = m ∧ operandOf i = x ∧ i.WellFormed ∧ decode (encode i) = .ok i ∧ ∀ v, x = some v → (encode i).toNat % 2 ^ 24 = v) ∧
  (∀ v, 64 < v → ∀ m ∈ ["GETU", "GETS", "GETSM", "GETF", "GETFS"], assembleCommand m (some v) = none) ∧
  (∀ v, 255 < v → assembleCommand "PUSH" (some v) = none ∧ assembleCommand "CRCBYTE" (some v) = none) ∧
  (∀ v, 16383 < v → assembleCommand "SKIP" (some v) = none) ∧ (∀ v, 0xFFFFFF < v → assembleCommand "CRCCHK" (some v) = none)

/-- R81: each pseudo-instruction stands for the accesses of its row; a decimal scale is converted exactly (log entry 12: one that no binary64 number
equals is rejected). -/
def Obligations.PseudoInstructionsExpand : Prop :=
  ∀ (agent : Nat) (bytes : List Byte) (x : Word64),
    assemble agent (.feed (bytes.map BitVec.toNat)) = some (bytes.map fun b => commandAccess agent (.push b)) ∧
    assemble agent (.crcof (bytes.map BitVec.toNat)) =
      some (commandAccess agent .crcinit :: bytes.map fun b => commandAccess agent (.crcbyte b)) ∧
    assemble agent (.setScale (.pattern x.toNat)) =
      some [regAccess agent .scaleLo (.write (x.setWidth 32)), regAccess agent .scaleHi (.write ((x >>> 32).setWidth 32))] ∧
    assemble agent .rdres = some [regAccess agent .resLo .read, regAccess agent .resHi .read] ∧
    assemble agent .peekid = some [regAccess agent .msgid .read] ∧
    (∀ lo hi : Word, (rdresValue lo hi).toNat = hi.toNat * 2 ^ 32 + lo.toNat) ∧
    ∀ (neg : Bool) (digits places : Nat) (r : Word64), scalePattern (.decimal neg digits places) = some r →
      f64IsFinite r = true ∧ f64Value r * 10 ^ places = (if neg then -1 else 1) * digits

/-! ### The bit reader (40_bitreader.md) -/

/-- R102: REWIND, in every state. -/
def Obligations.RewindRestartsTheReader : Prop :=
  ∀ s : State, decode 0x20000000#32 = .ok .rewind ∧ exec .rewind s = .next { s with brpos := 0#13, brerr := false }

/-- R103 (R12, R101): GETU. The cursor's sum does not wrap. -/
def Obligations.GetuReadsUnsignedField : Prop :=
  ∀ (s : State) (n : BitVec 7), n.toNat ≤ 64 →
    decode (0x21000000#32 ||| n.setWidth 32) = .ok (.getu n) ∧
    (Fits s n.toNat →
      fieldSum s s.brpos.toNat n.toNat < 2 ^ 64 ∧ s.brpos.toNat + n.toNat < 2 ^ 13 ∧
      exec (.getu n) s = .next
        { s with
          res := BitVec.ofNat 64 (fieldSum s s.brpos.toNat n.toNat)
          brpos := BitVec.ofNat 13 (s.brpos.toNat + n.toNat) }) ∧
    (¬ Fits s n.toNat → exec (.getu n) s = .next { s with brerr := true })

/-- R104 (R12, R13, R101): GETS. RES read as a two's-complement integer is the field's two's-complement integer. -/
def Obligations.GetsSignExtendsField : Prop :=
  ∀ (s : State) (n : BitVec 7), n.toNat ≤ 64 →
    decode (0x22000000#32 ||| n.setWidth 32) = .ok (.gets n) ∧
    (Fits s n.toNat →
      ∃ r : Word64, r.toInt = twosComplement n.toNat (fieldSum s s.brpos.toNat n.toNat) ∧ s.brpos.toNat + n.toNat < 2 ^ 13 ∧
        exec (.gets n) s = .next { s with res := r, brpos := BitVec.ofNat 13 (s.brpos.toNat + n.toNat) }) ∧
    (¬ Fits s n.toNat → exec (.gets n) s = .next { s with brerr := true })

/-- R105 (R12, R101): GETSM. RES read as a two's-complement integer is the sign-magnitude integer of the field; a negative zero gives 0. -/
def Obligations.GetsmReadsSignMagnitude : Prop :=
  ∀ (s : State) (n : BitVec 7), n.toNat ≤ 64 →
    decode (0x23000000#32 ||| n.setWidth 32) = .ok (.getsm n) ∧
    (Fits s n.toNat →
      ∃ r : Word64, r.toInt = signedMagnitude n.toNat (fieldSum s s.brpos.toNat n.toNat) ∧ s.brpos.toNat + n.toNat < 2 ^ 13 ∧
        exec (.getsm n) s = .next { s with res := r, brpos := BitVec.ofNat 13 (s.brpos.toNat + n.toNat) }) ∧
    (¬ Fits s n.toNat → exec (.getsm n) s = .next { s with brerr := true })

/-- R106 (R16, K1-10): GETF. With a finite SCALE the field is rounded once to binary64 and its product with SCALE once more; a NaN result is some NaN
pattern, whichever the free value gives. (`draws` and the free value are the model's: log entry 4.) -/
def Obligations.GetfMultipliesByScale : Prop :=
  ∀ (s : State) (n : BitVec 7), n.toNat ≤ 64 →
    decode (0x24000000#32 ||| n.setWidth 32) = .ok (.getf n) ∧
    (Fits s n.toNat →
      let v := fieldSum s s.brpos.toNat n.toNat
      let pos := BitVec.ofNat 13 (s.brpos.toNat + n.toNat)
      (f64IsFinite s.scale = true →
        ∃ c r, RoundsTo v c ∧ RoundsTo (f64Value c * f64Value s.scale) r ∧ f64Sign r = f64Sign s.scale ∧
          exec (.getf n) s = .next { s with res := r, brpos := pos }) ∧
      (f64IsInfinite s.scale = true ∧ v ≠ 0 → exec (.getf n) s = .next { s with res := s.scale, brpos := pos }) ∧
      (f64IsNan s.scale = true ∨ (f64IsInfinite s.scale = true ∧ v = 0) →
        ∃ r, f64IsNan r = true ∧ exec (.getf n) s = .next { s with res := r, brpos := pos, draws := s.draws + 1 })) ∧
    (¬ Fits s n.toNat → exec (.getf n) s = .next { s with brerr := true })

/-- R107 (R16, K1-10): GETFS, as GETF on the field's two's-complement integer. (`draws` and the free value are the model's: log entry 4.) -/
def Obligations.GetfsMultipliesByScale : Prop :=
  ∀ (s : State) (n : BitVec 7), n.toNat ≤ 64 →
    decode (0x25000000#32 ||| n.setWidth 32) = .ok (.getfs n) ∧
    (Fits s n.toNat →
      let i := twosComplement n.toNat (fieldSum s s.brpos.toNat n.toNat)
      let pos := BitVec.ofNat 13 (s.brpos.toNat + n.toNat)
      (f64IsFinite s.scale = true →
        ∃ c r, RoundsTo i c ∧ RoundsTo (f64Value c * f64Value s.scale) r ∧ f64Sign r = (decide (i < 0) ^^ f64Sign s.scale) ∧
          exec (.getfs n) s = .next { s with res := r, brpos := pos }) ∧
      (f64IsInfinite s.scale = true ∧ i ≠ 0 →
        ∃ r, f64IsInfinite r = true ∧ f64Sign r = (decide (i < 0) ^^ f64Sign s.scale) ∧
          exec (.getfs n) s = .next { s with res := r, brpos := pos }) ∧
      (f64IsNan s.scale = true ∨ (f64IsInfinite s.scale = true ∧ i = 0) →
        ∃ r, f64IsNan r = true ∧ exec (.getfs n) s = .next { s with res := r, brpos := pos, draws := s.draws + 1 })) ∧
    (¬ Fits s n.toNat → exec (.getfs n) s = .next { s with brerr := true })

/-- R108 (R101): SKIP. RES is not written; a SKIP past the end does not move the cursor. -/
def Obligations.SkipMovesOnlyTheCursor : Prop :=
  ∀ (s : State) (n : BitVec 14),
    decode (0x26000000#32 ||| n.setWidth 32) = .ok (.skip n) ∧
    (Fits s n.toNat →
      s.brpos.toNat + n.toNat < 2 ^ 13 ∧ exec (.skip n) s = .next { s with brpos := BitVec.ofNat 13 (s.brpos.toNat + n.toNat) }) ∧
    (¬ Fits s n.toNat → exec (.skip n) s = .next { s with brerr := true })

/-- R109: the bit-reader commands write BRPOS, BRERR and RES only, and SKIP and REWIND do not write RES. (`draws` counts the model's free values, log
entry 4.) -/
def Obligations.BitReaderIsPure : Prop :=
  ∀ (i : Instr) (s t : State), (i = .rewind ∨ ∃ n, Reads i n) → exec i s = .next t →
    (SameFrame s t ∧ SameRun s t ∧ t.buf = s.buf ∧ t.last = s.last ∧ t.need = s.need ∧ t.crc = s.crc ∧ t.crcm = s.crcm ∧ t.ill = s.ill ∧
      t.ovf = s.ovf ∧ t.scale = s.scale) ∧
    ((i = .rewind ∨ ∃ n, i = .skip n) → t.res = s.res)

/-- R110: two reads in a row read the field of the joined width, and a SKIP before a read drops the leading bits. -/
def Obligations.ReadsConcatenate : Prop :=
  ∀ (s : State) (a b : BitVec 7), a.toNat + b.toNat ≤ 64 → s.brerr = false → s.brpos.toNat + a.toNat + b.toNat ≤ 8 * s.flen.toNat →
    ∃ t₁ t₂ u₁ u₂ w, exec (.getu a) s = .next t₁ ∧ exec (.getu b) t₁ = .next t₂ ∧ exec (.skip (a.setWidth 14)) s = .next u₁ ∧
      exec (.getu b) u₁ = .next u₂ ∧ exec (.getu (a + b)) s = .next w ∧
      t₁.res.toNat * 2 ^ b.toNat + t₂.res.toNat = w.res.toNat ∧ t₂.brpos = w.brpos ∧ u₂.res.toNat = w.res.toNat % 2 ^ b.toNat

/-- R111, R30: a read or skip fails exactly when BRERR is 1 or the field would pass the payload's last bit; it then changes BRERR alone, and so does
every later read until REWIND, a yield or reset; a read that does not fail leaves BRERR 0. -/
def Obligations.FailedReadChangesOnlyBrerr : Prop :=
  ∀ (i : Instr) (n : Nat) (s t : State), Reads i n → exec i s = .next t →
    (t.brerr = true ↔ (s.brerr = true ∨ 8 * s.flen.toNat < s.brpos.toNat + n)) ∧
    (t.brerr = true → t = { s with brerr := true }) ∧
    (t.brerr = true → ∀ (j : Instr) (m : Nat), Reads j m → exec j t = .next t)

/-! ### Rounding (00_scope.md R16) -/

/-- R16: the rounding of `(-1)^neg * m * 2^e` is to nearest, ties to even, with overflow to infinity, and keeps the sign. (Overflow
and gradual underflow are IEEE 754's, which the spec takes from general knowledge, GK-2: log entry 7.) -/
def Obligations.RoundingIsToNearestEven : Prop :=
  ∀ (neg : Bool) (m : Nat) (e : Int),
    RoundsTo ((if neg then -1 else 1) * m * 2 ^ e) (f64Round neg m e) ∧ f64Sign (f64Round neg m e) = neg

/-- R106, R107: an integer of at most 53 bits, and -2^63, convert exactly. -/
def Obligations.SmallIntegersConvertExactly : Prop :=
  ∀ i : Int, (i.natAbs ≤ 2 ^ 53 ∨ i = -(2 ^ 63)) → f64IsFinite (toF64 i) = true ∧ f64Value (toF64 i) = i

/-! ### CRC-24Q (41_crc.md) -/

/-- R120: the CRC is the remainder of `M(x) * x^24` modulo the generator. -/
def Obligations.CrcIsPolynomialRemainder : Prop :=
  ∀ bytes : List Byte, crcPolynomial (crc24q bytes) = (messagePolynomial bytes * .X ^ 24) %ₘ generator

/-- R122: the table form, and the table entries the rule lists. -/
def Obligations.CrcTableForm : Prop :=
  (∀ (c : Crc24) (b : Byte), crcUpd c b = (c <<< 8) ^^^ crcTable (c.extractLsb' 16 8 ^^^ b)) ∧
  crcTable 0x00#8 = 0x000000#24 ∧ crcTable 0x01#8 = 0x864CFB#24 ∧ crcTable 0x02#8 = 0x8AD50D#24 ∧ crcTable 0x80#8 = 0x3347A4#24 ∧
  crcTable 0xD3#8 = 0xE33309#24 ∧ crcTable 0xFF#8 = 0xDD8538#24

/-- R123: leading zero bytes do not matter; folding in a 24-bit value gives 0 exactly when it is the CRC; the running form. -/
def Obligations.CrcLaws : Prop :=
  (∀ (k : Nat) (bytes : List Byte), crc24q (List.replicate k 0#8 ++ bytes) = crc24q bytes) ∧
  (∀ (bytes : List Byte) (f : Crc24),
    crc24q (bytes ++ [f.extractLsb' 16 8, f.extractLsb' 8 8, f.extractLsb' 0 8]) = 0#24 ↔ f = crc24q bytes) ∧
  (∀ (bytes : List Byte) (b : Byte), crc24q (bytes ++ [b]) = crcUpd (crc24q bytes) b)

/-- R125, R126, R127: what the three checker commands do, at every state and operand. -/
def Obligations.CheckerCommandsWriteTheirRegister : Prop :=
  ∀ (s : State) (b : BitVec 8) (v : BitVec 24),
    decode 0x30000000#32 = .ok .crcinit ∧ exec .crcinit s = .next { s with crc := 0#24 } ∧
    decode (0x31000000#32 ||| b.setWidth 32) = .ok (.crcbyte b) ∧
    exec (.crcbyte b) s = .next { s with crc := (s.crc <<< 8) ^^^ crcUpd 0#24 (s.crc.extractLsb' 16 8 ^^^ b) } ∧
    decode (0x32000000#32 ||| v.setWidth 32) = .ok (.crcchk v) ∧
    (s.crc = v → exec (.crcchk v) s = .next { s with crcm := true }) ∧ (s.crc ≠ v → exec (.crcchk v) s = .next { s with crcm := false })

/-- R126, R127: CRCINIT and then CRCBYTE of each byte leave CRC the CRC-24Q of the bytes and nothing else changed, and CRCCHK then tells whether a value
equals it. -/
def Obligations.CheckerComputesTheCrcOfItsBytes : Prop :=
  ∀ (s : State) (bytes : List Byte) (v : Crc24),
    ∃ t, (bytes.foldl (fun o b => match o with
        | some u => (match exec (.crcbyte b) u with | .next u' => some u' | .fault _ => none | .refused _ => none)
        | none => none)
      (match exec .crcinit s with | .next u => some u | .fault _ => none | .refused _ => none)) = some t ∧
      t = { s with crc := crc24q bytes } ∧ exec (.crcchk v) t = .next { t with crcm := decide (v = crc24q bytes) }

/-- R128, R155: the checker commands write CRC and CRCM only; what CRC and CRCM hold makes no difference to NEXT, and NEXT leaves them. -/
def Obligations.CheckerAndFramerShareNoState : Prop :=
  (∀ (i : Instr) (s t : State), (i = .crcinit ∨ (∃ b, i = .crcbyte b) ∨ ∃ v, i = .crcchk v) → exec i s = .next t →
    t = { s with crc := t.crc, crcm := t.crcm }) ∧
  (∀ (s t : State) (c : Crc24) (m : Bool), exec .next s = .next t →
    t.crc = s.crc ∧ t.crcm = s.crcm ∧ exec .next { s with crc := c, crcm := m } = .next { t with crc := c, crcm := m })

/-! ### The framer (42_framer.md) -/

/-- R148: PUSH. -/
def Obligations.PushAppendsOrOverflows : Prop :=
  ∀ (s : State) (b : BitVec 8),
    decode (0x10000000#32 ||| b.setWidth 32) = .ok (.push b) ∧
    (s.buf.length = 2048 → exec (.push b) s = .next { s with ovf := true }) ∧
    (s.buf.length ≠ 2048 → exec (.push b) s = .next { s with buf := s.buf ++ [b] })

/-- R151: the EMPTY exit: the scan finds no sync byte it can act on. -/
def Obligations.NextEmptyExit : Prop :=
  ∀ s : State, (∀ p < s.buf.length, RejectedAt s.buf p) → exec .next s = .next { s with buf := [], last := .empty, need := 0#11 }

/-- R152: the NEED exit on a short header. -/
def Obligations.NextNeedExitOnShortHeader : Prop :=
  ∀ (s : State) (p : Nat), ScanReaches s.buf p → ShortHeaderAt s.buf p →
    ∃ k, (k = 1 ∨ k = 2) ∧ k = 3 - (s.buf.length - p) ∧ (s.buf.drop p).head? = some 0xD3#8 ∧
      exec .next s = .next { s with buf := s.buf.drop p, last := .need, need := BitVec.ofNat 11 k }

/-- R153: the NEED exit on a short frame, with NEED in range and the least number of further bytes that complete the candidate. -/
def Obligations.NextNeedExitOnShortFrame : Prop :=
  ∀ (s : State) (p : Nat), ScanReaches s.buf p → ShortFrameAt s.buf p →
    ∃ k, k = lengthAt s.buf p + 6 - (s.buf.length - p) ∧ 1 ≤ k ∧ k ≤ 1026 ∧
      exec .next s = .next { s with buf := s.buf.drop p, last := .need, need := BitVec.ofNat 11 k } ∧
      ∀ more : List Byte, ShortFrameAt (s.buf.drop p ++ more) 0 ↔ more.length < k

/-- R145, R154: the FRAME exit: the frame is latched, the reader starts at its first bit, and its bytes leave the buffer. -/
def Obligations.NextYieldsAcceptedFrame : Prop :=
  ∀ (s : State) (p : Nat), ScanReaches s.buf p → AcceptedAt s.buf p →
    exec .next s = .next
      { s with
        buf := s.buf.drop (p + lengthAt s.buf p + 6)
        last := .frame
        need := 0#11
        fvalid := true
        frb := (s.buf.drop (p + 3)).take (lengthAt s.buf p)
        msgid := byteAt s.buf (p + 3) ++ (byteAt s.buf (p + 4)).extractLsb' 4 4
        fcrc := trailerAt s.buf p
        brpos := 0#13
        brerr := false } ∧
    ((s.buf.drop (p + 3)).take (lengthAt s.buf p)).length = lengthAt s.buf p

/-- R150: NEXT always ends in one of its exits, and LAST tells which condition the scan met. -/
def Obligations.NextExitsAsItsScanFinds : Prop :=
  ∀ s : State, ∃ t, exec .next s = .next t ∧
    (t.last = .empty ∧ (∀ p < s.buf.length, RejectedAt s.buf p) ∨
      t.last = .need ∧ (∃ p, ScanReaches s.buf p ∧ (ShortHeaderAt s.buf p ∨ ShortFrameAt s.buf p)) ∨
      t.last = .frame ∧ ∃ p, ScanReaches s.buf p ∧ AcceptedAt s.buf p)

/-- R156: a NEXT on a full buffer frees at least one byte, and at least 8 when it yields. -/
def Obligations.NextFreesAFullBuffer : Prop :=
  ∀ s : State, s.buf.length = 2048 →
    ∃ t, exec .next s = .next t ∧ t.buf.length < 2048 ∧ (t.last = .frame → t.buf.length + 8 ≤ 2048) ∧ (t.last = .empty → t.buf = [])

/-- R157: the yielded frames do not depend on how the host interleaves PUSH and NEXT. -/
def Obligations.ChunkingIndependence : Prop :=
  ∀ (s : State) (ms ms' : List Move), neverPushesFull ms s = true → neverPushesFull ms' s = true → pushedBytes ms = pushedBytes ms' →
    drains ms s → drains ms' s → (runMoves ms s).1 = (runMoves ms' s).1

/-- R147, R158: rejected bytes before a stream make no difference to what NEXT does with the stream. -/
def Obligations.ResyncAfterRejectedBytes : Prop :=
  ∀ (s : State) (junk : List Byte), (∀ p < junk.length, RejectedAt (junk ++ s.buf) p) →
    exec .next { s with buf := junk ++ s.buf } = exec .next s

/-- R159, R153: a sync byte with a valid header at the front of the buffer holds back every frame until its L + 6 bytes are there, whatever the host
pushes meanwhile and however often it issues NEXT. -/
def Obligations.FalseSyncByteStallsTheFramer : Prop :=
  ∀ (s : State) (ms : List Move), ShortFrameAt s.buf 0 → s.buf.length + (pushedBytes ms).length < lengthAt s.buf 0 + 6 →
    (runMoves ms s).1 = [] ∧ (runMoves ms s).2.buf = s.buf ++ pushedBytes ms ∧ SameFrame s (runMoves ms s).2

/-- R154, R197: what NEXT leaves alone: RES, SCALE, the checker, ILL and OVF always; the latched frame and the bit reader unless it yields. -/
def Obligations.NextKeepsTheFrameUnlessItYields : Prop :=
  ∀ s t : State, exec .next s = .next t →
    (SameRun s t ∧ t.res = s.res ∧ t.scale = s.scale ∧ t.crc = s.crc ∧ t.crcm = s.crcm ∧ t.ill = s.ill ∧ t.ovf = s.ovf ∧ t.draws = s.draws) ∧
    (t.last ≠ .frame → SameFrame s t ∧ t.brpos = s.brpos ∧ t.brerr = s.brerr) ∧ (t.last = .frame → t.brpos = 0#13 ∧ t.brerr = false) ∧
    (∃ k, t.buf = s.buf.drop k)

/-! ### Control commands and reset (43_control.md, 10_state.md R44) -/

/-- R160: NOP leaves any state; the word with any ARG bit set is illegal. -/
def Obligations.NopChangesNothing : Prop :=
  ∀ s : State, decode 0x00000000#32 = .ok .nop ∧ exec .nop s = .next s ∧
    ∀ arg : BitVec 24, arg ≠ 0#24 → execute (0x00#8 ++ arg) s = .next { s with ill := true }

/-- R161: SRST puts every piece of the block's state in its reset value of R44. That `client`, `pending`, `readback`, `draws` and `unit`, the model's own
fields, keep their values is the model's choice (log entry 8). -/
def Obligations.SrstGivesTheResetState : Prop :=
  ∀ s : State, decode 0x01000000#32 = .ok .srst ∧
    exec .srst s = .next
      { s with
        buf := []
        last := .none
        need := 0#11
        fvalid := false
        frb := []
        msgid := 0#12
        fcrc := 0#24
        brpos := 0#13
        brerr := false
        res := 0#64
        scale := 0x3FF0000000000000#64
        crc := 0#24
        crcm := false
        ill := false
        ovf := false }

/-- R162: CLRERR clears ILL and OVF and nothing else. -/
def Obligations.ClrerrClearsIllAndOvf : Prop :=
  ∀ s : State, decode 0x02000000#32 = .ok .clrerr ∧ exec .clrerr s = .next { s with ill := false, ovf := false }

/-- R44, R190: the values after reset, as the registers read. -/
def Obligations.ResetValuesOfTheRegisters : Prop :=
  State.reset.cnt = 0 ∧ State.reset.last = .none ∧ State.reset.need = 0#11 ∧ State.reset.fvalid = false ∧ State.reset.flen = 0#10 ∧
  State.reset.msgid = 0#12 ∧ State.reset.fcrc = 0#24 ∧ State.reset.brpos = 0#13 ∧ State.reset.brerr = false ∧ State.reset.res = 0#64 ∧
  State.reset.scale = 0x3FF0000000000000#64 ∧ State.reset.crc = 0#24 ∧ State.reset.crcm = false ∧ State.reset.ill = false ∧
  State.reset.ovf = false ∧ State.reset.full = false

/-! ### The whole machine -/

/-- R176: ILL and OVF are cleared by CLRERR and SRST alone, BRERR by REWIND, a NEXT that yields and SRST alone, and each of these does clear them. -/
def Obligations.OnlyNamedCommandsClearFlags : Prop :=
  ∀ (i : Instr) (s t : State), exec i s = .next t →
    (s.ill = true → (t.ill = false ↔ i = .clrerr ∨ i = .srst)) ∧ (s.ovf = true → (t.ovf = false ↔ i = .clrerr ∨ i = .srst)) ∧
    (s.brerr = true → (t.brerr = false ↔ i = .rewind ∨ i = .srst ∨ (i = .next ∧ t.last = .frame)))

/-- R171, R174: a legal command never sets ILL; OVF is set by a PUSH on a full buffer alone, BRERR by a read or skip that overruns alone. -/
def Obligations.OnlyNamedConditionsSetFlags : Prop :=
  ∀ (i : Instr) (s t : State), exec i s = .next t →
    (s.ill = false → t.ill = false) ∧ (s.ovf = false → (t.ovf = true ↔ (∃ b, i = .push b) ∧ s.buf.length = 2048)) ∧
    (s.brerr = false → (t.brerr = true ↔ ∃ n, Reads i n ∧ 8 * s.flen.toNat < s.brpos.toNat + n))

/-- R39, R29: the cursor moves only by a read or skip, by its width and within the payload, or back to 0 by REWIND, a yield or SRST. -/
def Obligations.CursorMovesOnlyByReadsAndRestarts : Prop :=
  ∀ (i : Instr) (s t : State), exec i s = .next t →
    t.brpos = s.brpos ∨ (∃ n, Reads i n ∧ t.brpos.toNat = s.brpos.toNat + n ∧ t.brpos.toNat ≤ 8 * s.flen.toNat) ∨
      (t.brpos = 0#13 ∧ (i = .rewind ∨ i = .srst ∨ (i = .next ∧ t.last = .frame)))

/-- R36, R37, R35, R33: BUF changes only by PUSH, NEXT and SRST, the frame registers only by a NEXT that yields and SRST, CRC only by CRCINIT, CRCBYTE
and SRST, SCALE by no command but SRST, RES only by the five reads and SRST, BRPOS and BRERR only by the reads, SKIP, REWIND, a NEXT that yields and
SRST, ILL only by CLRERR and SRST, OVF only by PUSH, CLRERR and SRST. (An illegal word, which is no command, sets ILL: IllegalWordSetsOnlyIll; a write
of SCALE is no command: WritesReachOnlyCmdAndScale.) -/
def Obligations.EachRegisterHasItsWriters : Prop :=
  ∀ (i : Instr) (s t : State), exec i s = .next t →
    (t.buf ≠ s.buf → (∃ b, i = .push b) ∨ i = .next ∨ i = .srst) ∧
    (¬ SameFrame s t → (i = .next ∧ t.last = .frame) ∨ i = .srst) ∧
    (t.crc ≠ s.crc → i = .crcinit ∨ (∃ b, i = .crcbyte b) ∨ i = .srst) ∧
    (t.crcm ≠ s.crcm → (∃ v, i = .crcchk v) ∨ i = .srst) ∧
    (t.scale ≠ s.scale → i = .srst) ∧
    ((t.last ≠ s.last ∨ t.need ≠ s.need) → i = .next ∨ i = .srst) ∧
    (t.res ≠ s.res → i = .srst ∨ ((∃ n, Reads i n) ∧ ∀ n, i ≠ .skip n)) ∧
    ((t.brpos ≠ s.brpos ∨ t.brerr ≠ s.brerr) → (∃ n, Reads i n) ∨ i = .rewind ∨ (i = .next ∧ t.last = .frame) ∨ i = .srst) ∧
    (t.ill ≠ s.ill → i = .clrerr ∨ i = .srst) ∧
    (t.ovf ≠ s.ovf → (∃ b, i = .push b) ∨ i = .clrerr ∨ i = .srst)

/-- R38: the invariant holds at reset. -/
def Obligations.ResetMeetsTheInvariant : Prop := State.reset.Inv

/-- R38: every step keeps the invariant, from every state that meets it. -/
def Obligations.StepKeepsTheInvariant : Prop :=
  ∀ s t : State, s.Inv → step s = .next t → t.Inv
end

