-- ==== Sys2Proof/Laws/Crc24Q.lean ====
section
/-! SUPPORT. CRC-24Q (41_crc.md): the loop is linear over exclusive or, and the running form. -/

namespace Sys2Proof.Machine

/-- R121: one turn of the loop is linear. -/
theorem crcShift_xor (a b : Crc24) : crcShift (a ^^^ b) = crcShift a ^^^ crcShift b := by
  unfold crcShift
  rw [BitVec.getLsbD_xor, BitVec.shiftLeft_xor_distrib]
  cases a.getLsbD 23 <;> cases b.getLsbD 23 <;> simp only [Bool.false_xor, Bool.true_xor, Bool.not_true, Bool.not_false, if_true,
    Bool.false_eq_true, if_false]
  · rw [BitVec.xor_assoc]
  · rw [BitVec.xor_assoc, BitVec.xor_assoc, BitVec.xor_comm (b <<< 1)]
  · rw [BitVec.xor_assoc, ← BitVec.xor_assoc (BitVec.setWidth 24 _), BitVec.xor_comm (BitVec.setWidth 24 _), BitVec.xor_assoc,
      BitVec.xor_self, BitVec.xor_zero]

@[simp] theorem crcShift_zero : crcShift 0#24 = 0#24 := by decide

theorem crcShift8_xor (a b : Crc24) : crcShift8 (a ^^^ b) = crcShift8 a ^^^ crcShift8 b := by
  simp only [crcShift8, crcShift_xor]

@[simp] theorem crcShift8_zero : crcShift8 0#24 = 0#24 := by simp [crcShift8]

/-- R121: below x^23 a turn of the loop is a plain shift. -/
theorem crcShift_low {c : Crc24} (h : c.toNat < 2 ^ 23) : crcShift c = c <<< 1 ∧ (crcShift c).toNat = 2 * c.toNat := by
  have hb : c.getLsbD 23 = false := Nat.testBit_lt_two_pow h
  have e : crcShift c = c <<< 1 := by unfold crcShift; rw [hb]; rfl
  refine ⟨e, ?_⟩
  rw [e, BitVec.toNat_shiftLeft, Nat.shiftLeft_eq, Nat.mod_eq_of_lt (by omega)]; omega

/-- R122: eight turns only shift a value whose top byte is 0. -/
theorem crcShift8_low {c : Crc24} (h : c.toNat < 2 ^ 16) : crcShift8 c = c <<< 8 := by
  have h1 := crcShift_low (c := c) (by omega)
  have h2 := crcShift_low (c := crcShift c) (by omega)
  have h3 := crcShift_low (c := crcShift (crcShift c)) (by omega)
  have h4 := crcShift_low (c := crcShift (crcShift (crcShift c))) (by omega)
  have h5 := crcShift_low (c := crcShift (crcShift (crcShift (crcShift c)))) (by omega)
  have h6 := crcShift_low (c := crcShift (crcShift (crcShift (crcShift (crcShift c))))) (by omega)
  have h7 := crcShift_low (c := crcShift (crcShift (crcShift (crcShift (crcShift (crcShift c)))))) (by omega)
  have h8 := crcShift_low (c := crcShift (crcShift (crcShift (crcShift (crcShift (crcShift (crcShift c))))))) (by omega)
  apply BitVec.eq_of_toNat_eq
  rw [BitVec.toNat_shiftLeft, Nat.shiftLeft_eq, Nat.mod_eq_of_lt (by omega)]
  unfold crcShift8
  omega

/-- R121: `Upd(c, b)` folds c and b in separately. -/
theorem crcUpd_eq (c : Crc24) (b : Byte) : crcUpd c b = crcShift8 c ^^^ crcTable b := by
  simp only [crcUpd, crcTable, crcShift8_xor, BitVec.zero_xor]

theorem crcUpd_zero : crcUpd 0#24 0#8 = 0#24 := by decide

@[simp] theorem crc24q_nil : crc24q [] = 0#24 := rfl

/-- R123 item 3: the running form, for any number of bytes. -/
theorem crc24q_append (xs ys : List Byte) : crc24q (xs ++ ys) = ys.foldl crcUpd (crc24q xs) := by
  simp [crc24q]

end Sys2Proof.Machine
end

