-- ==== Sys2Proof/Laws/Encoding.lean ====
section
/-! SUPPORT. The fields of a word built by the encoder, and what each format's check answers (30_encoding.md R70, R71). -/

namespace Sys2Proof

/-- The upper part of a concatenation. -/
theorem extract_hi_append {m n : Nat} (a : BitVec m) (b : BitVec n) : (a ++ b).extractLsb' n m = a := by
  ext i hi
  simp [BitVec.getLsbD_append, BitVec.getLsbD_eq_getElem hi]

/-- The lower part of a concatenation. -/
theorem extract_lo_append {m n : Nat} (a : BitVec m) (b : BitVec n) : (a ++ b).extractLsb' 0 n = b := by
  ext i hi; simp [BitVec.getLsbD_append, hi]

/-- A word is its upper part and its lower part. -/
theorem append_extract {m n : Nat} (w : BitVec (m + n)) : w.extractLsb' n m ++ w.extractLsb' 0 n = w := by
  ext i hi
  simp only [BitVec.getElem_append, BitVec.getElem_extractLsb', Nat.zero_add]
  split
  · simp [BitVec.getLsbD_eq_getElem hi]
  · rw [Nat.add_sub_cancel' (by omega), BitVec.getLsbD_eq_getElem hi]

/-- R70: the two fields of a word built from them. -/
@[simp] theorem opcOf_wordOf (opc : BitVec 8) (a : BitVec 24) : opcOf (wordOf opc a) = opc := extract_hi_append opc a

@[simp] theorem argOf_wordOf (opc : BitVec 8) (a : BitVec 24) : argOf (wordOf opc a) = a := extract_lo_append opc a

/-- R70: a word is its opcode and its operand field. -/
theorem wordOf_fields (w : Word) : wordOf (opcOf w) (argOf w) = w := append_extract (m := 8) (n := 24) w

/-- R76: decoding a word built from an opcode and an operand field. -/
@[simp] theorem decode_wordOf (opc : BitVec 8) (a : BitVec 24) : decode (wordOf opc a) = decodeFields opc a := by
  simp only [decode, opcOf_wordOf, argOf_wordOf]

/-- R71: the opcode's word with an operand placed at its low end is the word of the operand field with zeros above the operand. -/
theorem wordOf_or {k : Nat} (opc : BitVec 8) (x : BitVec k) (hk : k ≤ 24) :
    wordOf opc 0#24 ||| x.setWidth 32 = wordOf opc (x.setWidth 24) := by
  unfold wordOf
  apply BitVec.eq_of_getLsbD_eq
  intro i hi
  simp only [BitVec.getLsbD_or, BitVec.getLsbD_setWidth, BitVec.getLsbD_append, BitVec.getLsbD_zero]
  by_cases h : i < 24
  · simp [h, hi]
  · have : x.getLsbD i = false := BitVec.getLsbD_of_ge _ _ (by omega)
    simp [h, this]

theorem byte_setWidth (b : BitVec 8) : b.setWidth 24 = (0#16 ++ b : BitVec 24) := by
  apply BitVec.eq_of_getLsbD_eq
  intro i hi
  simp only [BitVec.getLsbD_setWidth, BitVec.getLsbD_append, BitVec.getLsbD_zero]
  by_cases h : i < 8
  · simp [h, hi]
  · simp [h, BitVec.getLsbD_of_ge b i (by omega)]

theorem width_setWidth (n : BitVec 7) : n.setWidth 24 = (0#17 ++ n : BitVec 24) := by
  apply BitVec.eq_of_getLsbD_eq
  intro i hi
  simp only [BitVec.getLsbD_setWidth, BitVec.getLsbD_append, BitVec.getLsbD_zero]
  by_cases h : i < 7
  · simp [h, hi]
  · simp [h, BitVec.getLsbD_of_ge n i (by omega)]

theorem count_setWidth (n : BitVec 14) : n.setWidth 24 = (0#10 ++ n : BitVec 24) := by
  apply BitVec.eq_of_getLsbD_eq
  intro i hi
  simp only [BitVec.getLsbD_setWidth, BitVec.getLsbD_append, BitVec.getLsbD_zero]
  by_cases h : i < 14
  · simp [h, hi]
  · simp [h, BitVec.getLsbD_of_ge n i (by omega)]

/-- R71: each format's check answers a command exactly on the operand fields of its diagram. -/
theorem formN_ok {i j : Instr} {a : BitVec 24} : formN i a = .ok j ↔ a = 0#24 ∧ j = i := by
  unfold formN
  constructor
  · split
    · rename_i h
      rintro ⟨⟩
      exact ⟨h, rfl⟩
    · rintro ⟨⟩
  · rintro ⟨h, rfl⟩
    exact if_pos h

theorem formB_ok {mk : BitVec 8 → Instr} {j : Instr} {a : BitVec 24} :
    formB mk a = .ok j ↔ ∃ b, a = 0#16 ++ b ∧ j = mk b := by
  unfold formB
  constructor
  · split
    · rename_i h
      rintro ⟨⟩
      exact ⟨_, by rw [← h]; exact (append_extract (m := 16) (n := 8) a).symm, rfl⟩
    · rintro ⟨⟩
  · rintro ⟨b, rfl, rfl⟩
    rw [if_pos (extract_hi_append (m := 16) (n := 8) 0#16 b), extract_lo_append (m := 16) (n := 8) 0#16 b]

theorem formW_ok {mk : BitVec 7 → Instr} {j : Instr} {a : BitVec 24} :
    formW mk a = .ok j ↔ ∃ n, a = 0#17 ++ n ∧ widthLegal n ∧ j = mk n := by
  unfold formW
  constructor
  · split
    · rename_i h
      split
      · rename_i h'
        rintro ⟨⟩
        exact ⟨_, by rw [← h]; exact (append_extract (m := 17) (n := 7) a).symm, h', rfl⟩
      · rintro ⟨⟩
    · rintro ⟨⟩
  · rintro ⟨n, rfl, hn, rfl⟩
    rw [if_pos (extract_hi_append (m := 17) (n := 7) 0#17 n), extract_lo_append (m := 17) (n := 7) 0#17 n, if_pos hn]

theorem formS_ok {mk : BitVec 14 → Instr} {j : Instr} {a : BitVec 24} :
    formS mk a = .ok j ↔ ∃ n, a = 0#10 ++ n ∧ j = mk n := by
  unfold formS
  constructor
  · split
    · rename_i h
      rintro ⟨⟩
      exact ⟨_, by rw [← h]; exact (append_extract (m := 10) (n := 14) a).symm, rfl⟩
    · rintro ⟨⟩
  · rintro ⟨n, rfl, rfl⟩
    rw [if_pos (extract_hi_append (m := 10) (n := 14) 0#10 n), extract_lo_append (m := 10) (n := 14) 0#10 n]

theorem formV_ok {mk : BitVec 24 → Instr} {j : Instr} {a : BitVec 24} : formV mk a = .ok j ↔ j = mk a := by
  simp [formV, eq_comm]

end Sys2Proof
end

