-- ==== Sys2Proof/Laws/State.lean ====
section
/-! SUPPORT. What each named update of the state does to each field, one lemma a field, so that no proof unfolds a record update. -/

namespace Sys2Proof.Machine

variable (s : State)

/-! ### markOverrun -/

@[simp] theorem State.markOverrun_buf : s.markOverrun.buf = s.buf := rfl
@[simp] theorem State.markOverrun_last : s.markOverrun.last = s.last := rfl
@[simp] theorem State.markOverrun_need : s.markOverrun.need = s.need := rfl
@[simp] theorem State.markOverrun_fvalid : s.markOverrun.fvalid = s.fvalid := rfl
@[simp] theorem State.markOverrun_frb : s.markOverrun.frb = s.frb := rfl
@[simp] theorem State.markOverrun_msgid : s.markOverrun.msgid = s.msgid := rfl
@[simp] theorem State.markOverrun_fcrc : s.markOverrun.fcrc = s.fcrc := rfl
@[simp] theorem State.markOverrun_brpos : s.markOverrun.brpos = s.brpos := rfl
@[simp] theorem State.markOverrun_brerr : s.markOverrun.brerr = true := rfl
@[simp] theorem State.markOverrun_res : s.markOverrun.res = s.res := rfl
@[simp] theorem State.markOverrun_scale : s.markOverrun.scale = s.scale := rfl
@[simp] theorem State.markOverrun_crc : s.markOverrun.crc = s.crc := rfl
@[simp] theorem State.markOverrun_crcm : s.markOverrun.crcm = s.crcm := rfl
@[simp] theorem State.markOverrun_ill : s.markOverrun.ill = s.ill := rfl
@[simp] theorem State.markOverrun_ovf : s.markOverrun.ovf = s.ovf := rfl
@[simp] theorem State.markOverrun_client : s.markOverrun.client = s.client := rfl
@[simp] theorem State.markOverrun_pending : s.markOverrun.pending = s.pending := rfl
@[simp] theorem State.markOverrun_readback : s.markOverrun.readback = s.readback := rfl
@[simp] theorem State.markOverrun_draws : s.markOverrun.draws = s.draws := rfl
@[simp] theorem State.markOverrun_unit : s.markOverrun.unit = s.unit := rfl

/-! ### markIllegal -/

@[simp] theorem State.markIllegal_buf : s.markIllegal.buf = s.buf := rfl
@[simp] theorem State.markIllegal_last : s.markIllegal.last = s.last := rfl
@[simp] theorem State.markIllegal_need : s.markIllegal.need = s.need := rfl
@[simp] theorem State.markIllegal_fvalid : s.markIllegal.fvalid = s.fvalid := rfl
@[simp] theorem State.markIllegal_frb : s.markIllegal.frb = s.frb := rfl
@[simp] theorem State.markIllegal_msgid : s.markIllegal.msgid = s.msgid := rfl
@[simp] theorem State.markIllegal_fcrc : s.markIllegal.fcrc = s.fcrc := rfl
@[simp] theorem State.markIllegal_brpos : s.markIllegal.brpos = s.brpos := rfl
@[simp] theorem State.markIllegal_brerr : s.markIllegal.brerr = s.brerr := rfl
@[simp] theorem State.markIllegal_res : s.markIllegal.res = s.res := rfl
@[simp] theorem State.markIllegal_scale : s.markIllegal.scale = s.scale := rfl
@[simp] theorem State.markIllegal_crc : s.markIllegal.crc = s.crc := rfl
@[simp] theorem State.markIllegal_crcm : s.markIllegal.crcm = s.crcm := rfl
@[simp] theorem State.markIllegal_ill : s.markIllegal.ill = true := rfl
@[simp] theorem State.markIllegal_ovf : s.markIllegal.ovf = s.ovf := rfl
@[simp] theorem State.markIllegal_client : s.markIllegal.client = s.client := rfl
@[simp] theorem State.markIllegal_pending : s.markIllegal.pending = s.pending := rfl
@[simp] theorem State.markIllegal_readback : s.markIllegal.readback = s.readback := rfl
@[simp] theorem State.markIllegal_draws : s.markIllegal.draws = s.draws := rfl
@[simp] theorem State.markIllegal_unit : s.markIllegal.unit = s.unit := rfl

/-! ### markOverflow -/

@[simp] theorem State.markOverflow_buf : s.markOverflow.buf = s.buf := rfl
@[simp] theorem State.markOverflow_last : s.markOverflow.last = s.last := rfl
@[simp] theorem State.markOverflow_need : s.markOverflow.need = s.need := rfl
@[simp] theorem State.markOverflow_fvalid : s.markOverflow.fvalid = s.fvalid := rfl
@[simp] theorem State.markOverflow_frb : s.markOverflow.frb = s.frb := rfl
@[simp] theorem State.markOverflow_msgid : s.markOverflow.msgid = s.msgid := rfl
@[simp] theorem State.markOverflow_fcrc : s.markOverflow.fcrc = s.fcrc := rfl
@[simp] theorem State.markOverflow_brpos : s.markOverflow.brpos = s.brpos := rfl
@[simp] theorem State.markOverflow_brerr : s.markOverflow.brerr = s.brerr := rfl
@[simp] theorem State.markOverflow_res : s.markOverflow.res = s.res := rfl
@[simp] theorem State.markOverflow_scale : s.markOverflow.scale = s.scale := rfl
@[simp] theorem State.markOverflow_crc : s.markOverflow.crc = s.crc := rfl
@[simp] theorem State.markOverflow_crcm : s.markOverflow.crcm = s.crcm := rfl
@[simp] theorem State.markOverflow_ill : s.markOverflow.ill = s.ill := rfl
@[simp] theorem State.markOverflow_ovf : s.markOverflow.ovf = true := rfl
@[simp] theorem State.markOverflow_client : s.markOverflow.client = s.client := rfl
@[simp] theorem State.markOverflow_pending : s.markOverflow.pending = s.pending := rfl
@[simp] theorem State.markOverflow_readback : s.markOverflow.readback = s.readback := rfl
@[simp] theorem State.markOverflow_draws : s.markOverflow.draws = s.draws := rfl
@[simp] theorem State.markOverflow_unit : s.markOverflow.unit = s.unit := rfl

/-! ### clearErrors -/

@[simp] theorem State.clearErrors_buf : s.clearErrors.buf = s.buf := rfl
@[simp] theorem State.clearErrors_last : s.clearErrors.last = s.last := rfl
@[simp] theorem State.clearErrors_need : s.clearErrors.need = s.need := rfl
@[simp] theorem State.clearErrors_fvalid : s.clearErrors.fvalid = s.fvalid := rfl
@[simp] theorem State.clearErrors_frb : s.clearErrors.frb = s.frb := rfl
@[simp] theorem State.clearErrors_msgid : s.clearErrors.msgid = s.msgid := rfl
@[simp] theorem State.clearErrors_fcrc : s.clearErrors.fcrc = s.fcrc := rfl
@[simp] theorem State.clearErrors_brpos : s.clearErrors.brpos = s.brpos := rfl
@[simp] theorem State.clearErrors_brerr : s.clearErrors.brerr = s.brerr := rfl
@[simp] theorem State.clearErrors_res : s.clearErrors.res = s.res := rfl
@[simp] theorem State.clearErrors_scale : s.clearErrors.scale = s.scale := rfl
@[simp] theorem State.clearErrors_crc : s.clearErrors.crc = s.crc := rfl
@[simp] theorem State.clearErrors_crcm : s.clearErrors.crcm = s.crcm := rfl
@[simp] theorem State.clearErrors_ill : s.clearErrors.ill = false := rfl
@[simp] theorem State.clearErrors_ovf : s.clearErrors.ovf = false := rfl
@[simp] theorem State.clearErrors_client : s.clearErrors.client = s.client := rfl
@[simp] theorem State.clearErrors_pending : s.clearErrors.pending = s.pending := rfl
@[simp] theorem State.clearErrors_readback : s.clearErrors.readback = s.readback := rfl
@[simp] theorem State.clearErrors_draws : s.clearErrors.draws = s.draws := rfl
@[simp] theorem State.clearErrors_unit : s.clearErrors.unit = s.unit := rfl

/-! ### setCrcm -/

@[simp] theorem State.setCrcm_buf (b : Bool) : (s.setCrcm b).buf = s.buf := rfl
@[simp] theorem State.setCrcm_last (b : Bool) : (s.setCrcm b).last = s.last := rfl
@[simp] theorem State.setCrcm_need (b : Bool) : (s.setCrcm b).need = s.need := rfl
@[simp] theorem State.setCrcm_fvalid (b : Bool) : (s.setCrcm b).fvalid = s.fvalid := rfl
@[simp] theorem State.setCrcm_frb (b : Bool) : (s.setCrcm b).frb = s.frb := rfl
@[simp] theorem State.setCrcm_msgid (b : Bool) : (s.setCrcm b).msgid = s.msgid := rfl
@[simp] theorem State.setCrcm_fcrc (b : Bool) : (s.setCrcm b).fcrc = s.fcrc := rfl
@[simp] theorem State.setCrcm_brpos (b : Bool) : (s.setCrcm b).brpos = s.brpos := rfl
@[simp] theorem State.setCrcm_brerr (b : Bool) : (s.setCrcm b).brerr = s.brerr := rfl
@[simp] theorem State.setCrcm_res (b : Bool) : (s.setCrcm b).res = s.res := rfl
@[simp] theorem State.setCrcm_scale (b : Bool) : (s.setCrcm b).scale = s.scale := rfl
@[simp] theorem State.setCrcm_crc (b : Bool) : (s.setCrcm b).crc = s.crc := rfl
@[simp] theorem State.setCrcm_crcm (b : Bool) : (s.setCrcm b).crcm = b := rfl
@[simp] theorem State.setCrcm_ill (b : Bool) : (s.setCrcm b).ill = s.ill := rfl
@[simp] theorem State.setCrcm_ovf (b : Bool) : (s.setCrcm b).ovf = s.ovf := rfl
@[simp] theorem State.setCrcm_client (b : Bool) : (s.setCrcm b).client = s.client := rfl
@[simp] theorem State.setCrcm_pending (b : Bool) : (s.setCrcm b).pending = s.pending := rfl
@[simp] theorem State.setCrcm_readback (b : Bool) : (s.setCrcm b).readback = s.readback := rfl
@[simp] theorem State.setCrcm_draws (b : Bool) : (s.setCrcm b).draws = s.draws := rfl
@[simp] theorem State.setCrcm_unit (b : Bool) : (s.setCrcm b).unit = s.unit := rfl

/-! ### setExit -/

@[simp] theorem State.setExit_buf (l : Last) (k : Nat) : (s.setExit l k).buf = s.buf := rfl
@[simp] theorem State.setExit_last (l : Last) (k : Nat) : (s.setExit l k).last = l := rfl
@[simp] theorem State.setExit_need (l : Last) (k : Nat) : (s.setExit l k).need = BitVec.ofNat 11 k := rfl
@[simp] theorem State.setExit_fvalid (l : Last) (k : Nat) : (s.setExit l k).fvalid = s.fvalid := rfl
@[simp] theorem State.setExit_frb (l : Last) (k : Nat) : (s.setExit l k).frb = s.frb := rfl
@[simp] theorem State.setExit_msgid (l : Last) (k : Nat) : (s.setExit l k).msgid = s.msgid := rfl
@[simp] theorem State.setExit_fcrc (l : Last) (k : Nat) : (s.setExit l k).fcrc = s.fcrc := rfl
@[simp] theorem State.setExit_brpos (l : Last) (k : Nat) : (s.setExit l k).brpos = s.brpos := rfl
@[simp] theorem State.setExit_brerr (l : Last) (k : Nat) : (s.setExit l k).brerr = s.brerr := rfl
@[simp] theorem State.setExit_res (l : Last) (k : Nat) : (s.setExit l k).res = s.res := rfl
@[simp] theorem State.setExit_scale (l : Last) (k : Nat) : (s.setExit l k).scale = s.scale := rfl
@[simp] theorem State.setExit_crc (l : Last) (k : Nat) : (s.setExit l k).crc = s.crc := rfl
@[simp] theorem State.setExit_crcm (l : Last) (k : Nat) : (s.setExit l k).crcm = s.crcm := rfl
@[simp] theorem State.setExit_ill (l : Last) (k : Nat) : (s.setExit l k).ill = s.ill := rfl
@[simp] theorem State.setExit_ovf (l : Last) (k : Nat) : (s.setExit l k).ovf = s.ovf := rfl
@[simp] theorem State.setExit_client (l : Last) (k : Nat) : (s.setExit l k).client = s.client := rfl
@[simp] theorem State.setExit_pending (l : Last) (k : Nat) : (s.setExit l k).pending = s.pending := rfl
@[simp] theorem State.setExit_readback (l : Last) (k : Nat) : (s.setExit l k).readback = s.readback := rfl
@[simp] theorem State.setExit_draws (l : Last) (k : Nat) : (s.setExit l k).draws = s.draws := rfl
@[simp] theorem State.setExit_unit (l : Last) (k : Nat) : (s.setExit l k).unit = s.unit := rfl

/-! ### advance -/

@[simp] theorem State.advance_buf (n : Nat) : (s.advance n).buf = s.buf := rfl
@[simp] theorem State.advance_last (n : Nat) : (s.advance n).last = s.last := rfl
@[simp] theorem State.advance_need (n : Nat) : (s.advance n).need = s.need := rfl
@[simp] theorem State.advance_fvalid (n : Nat) : (s.advance n).fvalid = s.fvalid := rfl
@[simp] theorem State.advance_frb (n : Nat) : (s.advance n).frb = s.frb := rfl
@[simp] theorem State.advance_msgid (n : Nat) : (s.advance n).msgid = s.msgid := rfl
@[simp] theorem State.advance_fcrc (n : Nat) : (s.advance n).fcrc = s.fcrc := rfl
@[simp] theorem State.advance_brpos (n : Nat) : (s.advance n).brpos = s.brpos + BitVec.ofNat 13 n := rfl
@[simp] theorem State.advance_brerr (n : Nat) : (s.advance n).brerr = s.brerr := rfl
@[simp] theorem State.advance_res (n : Nat) : (s.advance n).res = s.res := rfl
@[simp] theorem State.advance_scale (n : Nat) : (s.advance n).scale = s.scale := rfl
@[simp] theorem State.advance_crc (n : Nat) : (s.advance n).crc = s.crc := rfl
@[simp] theorem State.advance_crcm (n : Nat) : (s.advance n).crcm = s.crcm := rfl
@[simp] theorem State.advance_ill (n : Nat) : (s.advance n).ill = s.ill := rfl
@[simp] theorem State.advance_ovf (n : Nat) : (s.advance n).ovf = s.ovf := rfl
@[simp] theorem State.advance_client (n : Nat) : (s.advance n).client = s.client := rfl
@[simp] theorem State.advance_pending (n : Nat) : (s.advance n).pending = s.pending := rfl
@[simp] theorem State.advance_readback (n : Nat) : (s.advance n).readback = s.readback := rfl
@[simp] theorem State.advance_draws (n : Nat) : (s.advance n).draws = s.draws := rfl
@[simp] theorem State.advance_unit (n : Nat) : (s.advance n).unit = s.unit := rfl

/-! ### setRes -/

@[simp] theorem State.setRes_buf (v : Word64) : (s.setRes v).buf = s.buf := rfl
@[simp] theorem State.setRes_last (v : Word64) : (s.setRes v).last = s.last := rfl
@[simp] theorem State.setRes_need (v : Word64) : (s.setRes v).need = s.need := rfl
@[simp] theorem State.setRes_fvalid (v : Word64) : (s.setRes v).fvalid = s.fvalid := rfl
@[simp] theorem State.setRes_frb (v : Word64) : (s.setRes v).frb = s.frb := rfl
@[simp] theorem State.setRes_msgid (v : Word64) : (s.setRes v).msgid = s.msgid := rfl
@[simp] theorem State.setRes_fcrc (v : Word64) : (s.setRes v).fcrc = s.fcrc := rfl
@[simp] theorem State.setRes_brpos (v : Word64) : (s.setRes v).brpos = s.brpos := rfl
@[simp] theorem State.setRes_brerr (v : Word64) : (s.setRes v).brerr = s.brerr := rfl
@[simp] theorem State.setRes_res (v : Word64) : (s.setRes v).res = v := rfl
@[simp] theorem State.setRes_scale (v : Word64) : (s.setRes v).scale = s.scale := rfl
@[simp] theorem State.setRes_crc (v : Word64) : (s.setRes v).crc = s.crc := rfl
@[simp] theorem State.setRes_crcm (v : Word64) : (s.setRes v).crcm = s.crcm := rfl
@[simp] theorem State.setRes_ill (v : Word64) : (s.setRes v).ill = s.ill := rfl
@[simp] theorem State.setRes_ovf (v : Word64) : (s.setRes v).ovf = s.ovf := rfl
@[simp] theorem State.setRes_client (v : Word64) : (s.setRes v).client = s.client := rfl
@[simp] theorem State.setRes_pending (v : Word64) : (s.setRes v).pending = s.pending := rfl
@[simp] theorem State.setRes_readback (v : Word64) : (s.setRes v).readback = s.readback := rfl
@[simp] theorem State.setRes_draws (v : Word64) : (s.setRes v).draws = s.draws := rfl
@[simp] theorem State.setRes_unit (v : Word64) : (s.setRes v).unit = s.unit := rfl

/-! ### rewind -/

@[simp] theorem State.rewind_buf : s.rewind.buf = s.buf := rfl
@[simp] theorem State.rewind_last : s.rewind.last = s.last := rfl
@[simp] theorem State.rewind_need : s.rewind.need = s.need := rfl
@[simp] theorem State.rewind_fvalid : s.rewind.fvalid = s.fvalid := rfl
@[simp] theorem State.rewind_frb : s.rewind.frb = s.frb := rfl
@[simp] theorem State.rewind_msgid : s.rewind.msgid = s.msgid := rfl
@[simp] theorem State.rewind_fcrc : s.rewind.fcrc = s.fcrc := rfl
@[simp] theorem State.rewind_brpos : s.rewind.brpos = 0#13 := rfl
@[simp] theorem State.rewind_brerr : s.rewind.brerr = false := rfl
@[simp] theorem State.rewind_res : s.rewind.res = s.res := rfl
@[simp] theorem State.rewind_scale : s.rewind.scale = s.scale := rfl
@[simp] theorem State.rewind_crc : s.rewind.crc = s.crc := rfl
@[simp] theorem State.rewind_crcm : s.rewind.crcm = s.crcm := rfl
@[simp] theorem State.rewind_ill : s.rewind.ill = s.ill := rfl
@[simp] theorem State.rewind_ovf : s.rewind.ovf = s.ovf := rfl
@[simp] theorem State.rewind_client : s.rewind.client = s.client := rfl
@[simp] theorem State.rewind_pending : s.rewind.pending = s.pending := rfl
@[simp] theorem State.rewind_readback : s.rewind.readback = s.readback := rfl
@[simp] theorem State.rewind_draws : s.rewind.draws = s.draws := rfl
@[simp] theorem State.rewind_unit : s.rewind.unit = s.unit := rfl

/-! ### setResNan -/

@[simp] theorem State.setResNan_buf (x : Word64) : (s.setResNan x).buf = s.buf := rfl
@[simp] theorem State.setResNan_last (x : Word64) : (s.setResNan x).last = s.last := rfl
@[simp] theorem State.setResNan_need (x : Word64) : (s.setResNan x).need = s.need := rfl
@[simp] theorem State.setResNan_fvalid (x : Word64) : (s.setResNan x).fvalid = s.fvalid := rfl
@[simp] theorem State.setResNan_frb (x : Word64) : (s.setResNan x).frb = s.frb := rfl
@[simp] theorem State.setResNan_msgid (x : Word64) : (s.setResNan x).msgid = s.msgid := rfl
@[simp] theorem State.setResNan_fcrc (x : Word64) : (s.setResNan x).fcrc = s.fcrc := rfl
@[simp] theorem State.setResNan_brpos (x : Word64) : (s.setResNan x).brpos = s.brpos := rfl
@[simp] theorem State.setResNan_brerr (x : Word64) : (s.setResNan x).brerr = s.brerr := rfl
@[simp] theorem State.setResNan_res (x : Word64) : (s.setResNan x).res = nanPattern (Config.freeNan s.unit s.draws x s.scale) := rfl
@[simp] theorem State.setResNan_scale (x : Word64) : (s.setResNan x).scale = s.scale := rfl
@[simp] theorem State.setResNan_crc (x : Word64) : (s.setResNan x).crc = s.crc := rfl
@[simp] theorem State.setResNan_crcm (x : Word64) : (s.setResNan x).crcm = s.crcm := rfl
@[simp] theorem State.setResNan_ill (x : Word64) : (s.setResNan x).ill = s.ill := rfl
@[simp] theorem State.setResNan_ovf (x : Word64) : (s.setResNan x).ovf = s.ovf := rfl
@[simp] theorem State.setResNan_client (x : Word64) : (s.setResNan x).client = s.client := rfl
@[simp] theorem State.setResNan_pending (x : Word64) : (s.setResNan x).pending = s.pending := rfl
@[simp] theorem State.setResNan_readback (x : Word64) : (s.setResNan x).readback = s.readback := rfl
@[simp] theorem State.setResNan_draws (x : Word64) : (s.setResNan x).draws = s.draws + 1 := rfl
@[simp] theorem State.setResNan_unit (x : Word64) : (s.setResNan x).unit = s.unit := rfl

/-! ### append -/

@[simp] theorem State.append_buf (b : Byte) : (s.append b).buf = s.buf ++ [b] := rfl
@[simp] theorem State.append_last (b : Byte) : (s.append b).last = s.last := rfl
@[simp] theorem State.append_need (b : Byte) : (s.append b).need = s.need := rfl
@[simp] theorem State.append_fvalid (b : Byte) : (s.append b).fvalid = s.fvalid := rfl
@[simp] theorem State.append_frb (b : Byte) : (s.append b).frb = s.frb := rfl
@[simp] theorem State.append_msgid (b : Byte) : (s.append b).msgid = s.msgid := rfl
@[simp] theorem State.append_fcrc (b : Byte) : (s.append b).fcrc = s.fcrc := rfl
@[simp] theorem State.append_brpos (b : Byte) : (s.append b).brpos = s.brpos := rfl
@[simp] theorem State.append_brerr (b : Byte) : (s.append b).brerr = s.brerr := rfl
@[simp] theorem State.append_res (b : Byte) : (s.append b).res = s.res := rfl
@[simp] theorem State.append_scale (b : Byte) : (s.append b).scale = s.scale := rfl
@[simp] theorem State.append_crc (b : Byte) : (s.append b).crc = s.crc := rfl
@[simp] theorem State.append_crcm (b : Byte) : (s.append b).crcm = s.crcm := rfl
@[simp] theorem State.append_ill (b : Byte) : (s.append b).ill = s.ill := rfl
@[simp] theorem State.append_ovf (b : Byte) : (s.append b).ovf = s.ovf := rfl
@[simp] theorem State.append_client (b : Byte) : (s.append b).client = s.client := rfl
@[simp] theorem State.append_pending (b : Byte) : (s.append b).pending = s.pending := rfl
@[simp] theorem State.append_readback (b : Byte) : (s.append b).readback = s.readback := rfl
@[simp] theorem State.append_draws (b : Byte) : (s.append b).draws = s.draws := rfl
@[simp] theorem State.append_unit (b : Byte) : (s.append b).unit = s.unit := rfl

/-! ### discard -/

@[simp] theorem State.discard_buf (k : Nat) : (s.discard k).buf = s.buf.drop k := rfl
@[simp] theorem State.discard_last (k : Nat) : (s.discard k).last = s.last := rfl
@[simp] theorem State.discard_need (k : Nat) : (s.discard k).need = s.need := rfl
@[simp] theorem State.discard_fvalid (k : Nat) : (s.discard k).fvalid = s.fvalid := rfl
@[simp] theorem State.discard_frb (k : Nat) : (s.discard k).frb = s.frb := rfl
@[simp] theorem State.discard_msgid (k : Nat) : (s.discard k).msgid = s.msgid := rfl
@[simp] theorem State.discard_fcrc (k : Nat) : (s.discard k).fcrc = s.fcrc := rfl
@[simp] theorem State.discard_brpos (k : Nat) : (s.discard k).brpos = s.brpos := rfl
@[simp] theorem State.discard_brerr (k : Nat) : (s.discard k).brerr = s.brerr := rfl
@[simp] theorem State.discard_res (k : Nat) : (s.discard k).res = s.res := rfl
@[simp] theorem State.discard_scale (k : Nat) : (s.discard k).scale = s.scale := rfl
@[simp] theorem State.discard_crc (k : Nat) : (s.discard k).crc = s.crc := rfl
@[simp] theorem State.discard_crcm (k : Nat) : (s.discard k).crcm = s.crcm := rfl
@[simp] theorem State.discard_ill (k : Nat) : (s.discard k).ill = s.ill := rfl
@[simp] theorem State.discard_ovf (k : Nat) : (s.discard k).ovf = s.ovf := rfl
@[simp] theorem State.discard_client (k : Nat) : (s.discard k).client = s.client := rfl
@[simp] theorem State.discard_pending (k : Nat) : (s.discard k).pending = s.pending := rfl
@[simp] theorem State.discard_readback (k : Nat) : (s.discard k).readback = s.readback := rfl
@[simp] theorem State.discard_draws (k : Nat) : (s.discard k).draws = s.draws := rfl
@[simp] theorem State.discard_unit (k : Nat) : (s.discard k).unit = s.unit := rfl

/-! ### latch -/

@[simp] theorem State.latch_buf (p len : Nat) (f : Crc24) : (s.latch p len f).buf = s.buf := rfl
@[simp] theorem State.latch_last (p len : Nat) (f : Crc24) : (s.latch p len f).last = s.last := rfl
@[simp] theorem State.latch_need (p len : Nat) (f : Crc24) : (s.latch p len f).need = s.need := rfl
@[simp] theorem State.latch_fvalid (p len : Nat) (f : Crc24) : (s.latch p len f).fvalid = true := rfl
@[simp] theorem State.latch_frb (p len : Nat) (f : Crc24) : (s.latch p len f).frb = (s.buf.drop (p + 3)).take len := rfl
@[simp] theorem State.latch_msgid (p len : Nat) (f : Crc24) : (s.latch p len f).msgid = messageNumber (byteAt s.buf (p + 3)) (byteAt s.buf (p + 4)) := rfl
@[simp] theorem State.latch_fcrc (p len : Nat) (f : Crc24) : (s.latch p len f).fcrc = f := rfl
@[simp] theorem State.latch_brpos (p len : Nat) (f : Crc24) : (s.latch p len f).brpos = 0#13 := rfl
@[simp] theorem State.latch_brerr (p len : Nat) (f : Crc24) : (s.latch p len f).brerr = false := rfl
@[simp] theorem State.latch_res (p len : Nat) (f : Crc24) : (s.latch p len f).res = s.res := rfl
@[simp] theorem State.latch_scale (p len : Nat) (f : Crc24) : (s.latch p len f).scale = s.scale := rfl
@[simp] theorem State.latch_crc (p len : Nat) (f : Crc24) : (s.latch p len f).crc = s.crc := rfl
@[simp] theorem State.latch_crcm (p len : Nat) (f : Crc24) : (s.latch p len f).crcm = s.crcm := rfl
@[simp] theorem State.latch_ill (p len : Nat) (f : Crc24) : (s.latch p len f).ill = s.ill := rfl
@[simp] theorem State.latch_ovf (p len : Nat) (f : Crc24) : (s.latch p len f).ovf = s.ovf := rfl
@[simp] theorem State.latch_client (p len : Nat) (f : Crc24) : (s.latch p len f).client = s.client := rfl
@[simp] theorem State.latch_pending (p len : Nat) (f : Crc24) : (s.latch p len f).pending = s.pending := rfl
@[simp] theorem State.latch_readback (p len : Nat) (f : Crc24) : (s.latch p len f).readback = s.readback := rfl
@[simp] theorem State.latch_draws (p len : Nat) (f : Crc24) : (s.latch p len f).draws = s.draws := rfl
@[simp] theorem State.latch_unit (p len : Nat) (f : Crc24) : (s.latch p len f).unit = s.unit := rfl

/-! ### setCrc -/

@[simp] theorem State.setCrc_buf (c : Crc24) : (s.setCrc c).buf = s.buf := rfl
@[simp] theorem State.setCrc_last (c : Crc24) : (s.setCrc c).last = s.last := rfl
@[simp] theorem State.setCrc_need (c : Crc24) : (s.setCrc c).need = s.need := rfl
@[simp] theorem State.setCrc_fvalid (c : Crc24) : (s.setCrc c).fvalid = s.fvalid := rfl
@[simp] theorem State.setCrc_frb (c : Crc24) : (s.setCrc c).frb = s.frb := rfl
@[simp] theorem State.setCrc_msgid (c : Crc24) : (s.setCrc c).msgid = s.msgid := rfl
@[simp] theorem State.setCrc_fcrc (c : Crc24) : (s.setCrc c).fcrc = s.fcrc := rfl
@[simp] theorem State.setCrc_brpos (c : Crc24) : (s.setCrc c).brpos = s.brpos := rfl
@[simp] theorem State.setCrc_brerr (c : Crc24) : (s.setCrc c).brerr = s.brerr := rfl
@[simp] theorem State.setCrc_res (c : Crc24) : (s.setCrc c).res = s.res := rfl
@[simp] theorem State.setCrc_scale (c : Crc24) : (s.setCrc c).scale = s.scale := rfl
@[simp] theorem State.setCrc_crc (c : Crc24) : (s.setCrc c).crc = c := rfl
@[simp] theorem State.setCrc_crcm (c : Crc24) : (s.setCrc c).crcm = s.crcm := rfl
@[simp] theorem State.setCrc_ill (c : Crc24) : (s.setCrc c).ill = s.ill := rfl
@[simp] theorem State.setCrc_ovf (c : Crc24) : (s.setCrc c).ovf = s.ovf := rfl
@[simp] theorem State.setCrc_client (c : Crc24) : (s.setCrc c).client = s.client := rfl
@[simp] theorem State.setCrc_pending (c : Crc24) : (s.setCrc c).pending = s.pending := rfl
@[simp] theorem State.setCrc_readback (c : Crc24) : (s.setCrc c).readback = s.readback := rfl
@[simp] theorem State.setCrc_draws (c : Crc24) : (s.setCrc c).draws = s.draws := rfl
@[simp] theorem State.setCrc_unit (c : Crc24) : (s.setCrc c).unit = s.unit := rfl

/-! ### setScaleLo -/

@[simp] theorem State.setScaleLo_buf (v : Word) : (s.setScaleLo v).buf = s.buf := rfl
@[simp] theorem State.setScaleLo_last (v : Word) : (s.setScaleLo v).last = s.last := rfl
@[simp] theorem State.setScaleLo_need (v : Word) : (s.setScaleLo v).need = s.need := rfl
@[simp] theorem State.setScaleLo_fvalid (v : Word) : (s.setScaleLo v).fvalid = s.fvalid := rfl
@[simp] theorem State.setScaleLo_frb (v : Word) : (s.setScaleLo v).frb = s.frb := rfl
@[simp] theorem State.setScaleLo_msgid (v : Word) : (s.setScaleLo v).msgid = s.msgid := rfl
@[simp] theorem State.setScaleLo_fcrc (v : Word) : (s.setScaleLo v).fcrc = s.fcrc := rfl
@[simp] theorem State.setScaleLo_brpos (v : Word) : (s.setScaleLo v).brpos = s.brpos := rfl
@[simp] theorem State.setScaleLo_brerr (v : Word) : (s.setScaleLo v).brerr = s.brerr := rfl
@[simp] theorem State.setScaleLo_res (v : Word) : (s.setScaleLo v).res = s.res := rfl
@[simp] theorem State.setScaleLo_scale (v : Word) : (s.setScaleLo v).scale = s.scale.extractLsb' 32 32 ++ v := rfl
@[simp] theorem State.setScaleLo_crc (v : Word) : (s.setScaleLo v).crc = s.crc := rfl
@[simp] theorem State.setScaleLo_crcm (v : Word) : (s.setScaleLo v).crcm = s.crcm := rfl
@[simp] theorem State.setScaleLo_ill (v : Word) : (s.setScaleLo v).ill = s.ill := rfl
@[simp] theorem State.setScaleLo_ovf (v : Word) : (s.setScaleLo v).ovf = s.ovf := rfl
@[simp] theorem State.setScaleLo_client (v : Word) : (s.setScaleLo v).client = s.client := rfl
@[simp] theorem State.setScaleLo_pending (v : Word) : (s.setScaleLo v).pending = s.pending := rfl
@[simp] theorem State.setScaleLo_readback (v : Word) : (s.setScaleLo v).readback = s.readback := rfl
@[simp] theorem State.setScaleLo_draws (v : Word) : (s.setScaleLo v).draws = s.draws := rfl
@[simp] theorem State.setScaleLo_unit (v : Word) : (s.setScaleLo v).unit = s.unit := rfl

/-! ### setScaleHi -/

@[simp] theorem State.setScaleHi_buf (v : Word) : (s.setScaleHi v).buf = s.buf := rfl
@[simp] theorem State.setScaleHi_last (v : Word) : (s.setScaleHi v).last = s.last := rfl
@[simp] theorem State.setScaleHi_need (v : Word) : (s.setScaleHi v).need = s.need := rfl
@[simp] theorem State.setScaleHi_fvalid (v : Word) : (s.setScaleHi v).fvalid = s.fvalid := rfl
@[simp] theorem State.setScaleHi_frb (v : Word) : (s.setScaleHi v).frb = s.frb := rfl
@[simp] theorem State.setScaleHi_msgid (v : Word) : (s.setScaleHi v).msgid = s.msgid := rfl
@[simp] theorem State.setScaleHi_fcrc (v : Word) : (s.setScaleHi v).fcrc = s.fcrc := rfl
@[simp] theorem State.setScaleHi_brpos (v : Word) : (s.setScaleHi v).brpos = s.brpos := rfl
@[simp] theorem State.setScaleHi_brerr (v : Word) : (s.setScaleHi v).brerr = s.brerr := rfl
@[simp] theorem State.setScaleHi_res (v : Word) : (s.setScaleHi v).res = s.res := rfl
@[simp] theorem State.setScaleHi_scale (v : Word) : (s.setScaleHi v).scale = v ++ s.scale.extractLsb' 0 32 := rfl
@[simp] theorem State.setScaleHi_crc (v : Word) : (s.setScaleHi v).crc = s.crc := rfl
@[simp] theorem State.setScaleHi_crcm (v : Word) : (s.setScaleHi v).crcm = s.crcm := rfl
@[simp] theorem State.setScaleHi_ill (v : Word) : (s.setScaleHi v).ill = s.ill := rfl
@[simp] theorem State.setScaleHi_ovf (v : Word) : (s.setScaleHi v).ovf = s.ovf := rfl
@[simp] theorem State.setScaleHi_client (v : Word) : (s.setScaleHi v).client = s.client := rfl
@[simp] theorem State.setScaleHi_pending (v : Word) : (s.setScaleHi v).pending = s.pending := rfl
@[simp] theorem State.setScaleHi_readback (v : Word) : (s.setScaleHi v).readback = s.readback := rfl
@[simp] theorem State.setScaleHi_draws (v : Word) : (s.setScaleHi v).draws = s.draws := rfl
@[simp] theorem State.setScaleHi_unit (v : Word) : (s.setScaleHi v).unit = s.unit := rfl

/-! ### taken -/

@[simp] theorem State.taken_buf (agent : Nat) (rest : List Access) : (s.taken agent rest).buf = s.buf := rfl
@[simp] theorem State.taken_last (agent : Nat) (rest : List Access) : (s.taken agent rest).last = s.last := rfl
@[simp] theorem State.taken_need (agent : Nat) (rest : List Access) : (s.taken agent rest).need = s.need := rfl
@[simp] theorem State.taken_fvalid (agent : Nat) (rest : List Access) : (s.taken agent rest).fvalid = s.fvalid := rfl
@[simp] theorem State.taken_frb (agent : Nat) (rest : List Access) : (s.taken agent rest).frb = s.frb := rfl
@[simp] theorem State.taken_msgid (agent : Nat) (rest : List Access) : (s.taken agent rest).msgid = s.msgid := rfl
@[simp] theorem State.taken_fcrc (agent : Nat) (rest : List Access) : (s.taken agent rest).fcrc = s.fcrc := rfl
@[simp] theorem State.taken_brpos (agent : Nat) (rest : List Access) : (s.taken agent rest).brpos = s.brpos := rfl
@[simp] theorem State.taken_brerr (agent : Nat) (rest : List Access) : (s.taken agent rest).brerr = s.brerr := rfl
@[simp] theorem State.taken_res (agent : Nat) (rest : List Access) : (s.taken agent rest).res = s.res := rfl
@[simp] theorem State.taken_scale (agent : Nat) (rest : List Access) : (s.taken agent rest).scale = s.scale := rfl
@[simp] theorem State.taken_crc (agent : Nat) (rest : List Access) : (s.taken agent rest).crc = s.crc := rfl
@[simp] theorem State.taken_crcm (agent : Nat) (rest : List Access) : (s.taken agent rest).crcm = s.crcm := rfl
@[simp] theorem State.taken_ill (agent : Nat) (rest : List Access) : (s.taken agent rest).ill = s.ill := rfl
@[simp] theorem State.taken_ovf (agent : Nat) (rest : List Access) : (s.taken agent rest).ovf = s.ovf := rfl
@[simp] theorem State.taken_client (agent : Nat) (rest : List Access) : (s.taken agent rest).client = some agent := rfl
@[simp] theorem State.taken_pending (agent : Nat) (rest : List Access) : (s.taken agent rest).pending = rest := rfl
@[simp] theorem State.taken_readback (agent : Nat) (rest : List Access) : (s.taken agent rest).readback = s.readback := rfl
@[simp] theorem State.taken_draws (agent : Nat) (rest : List Access) : (s.taken agent rest).draws = s.draws := rfl
@[simp] theorem State.taken_unit (agent : Nat) (rest : List Access) : (s.taken agent rest).unit = s.unit := rfl

/-! ### returned -/

@[simp] theorem State.returned_buf (v : Word) : (s.returned v).buf = s.buf := rfl
@[simp] theorem State.returned_last (v : Word) : (s.returned v).last = s.last := rfl
@[simp] theorem State.returned_need (v : Word) : (s.returned v).need = s.need := rfl
@[simp] theorem State.returned_fvalid (v : Word) : (s.returned v).fvalid = s.fvalid := rfl
@[simp] theorem State.returned_frb (v : Word) : (s.returned v).frb = s.frb := rfl
@[simp] theorem State.returned_msgid (v : Word) : (s.returned v).msgid = s.msgid := rfl
@[simp] theorem State.returned_fcrc (v : Word) : (s.returned v).fcrc = s.fcrc := rfl
@[simp] theorem State.returned_brpos (v : Word) : (s.returned v).brpos = s.brpos := rfl
@[simp] theorem State.returned_brerr (v : Word) : (s.returned v).brerr = s.brerr := rfl
@[simp] theorem State.returned_res (v : Word) : (s.returned v).res = s.res := rfl
@[simp] theorem State.returned_scale (v : Word) : (s.returned v).scale = s.scale := rfl
@[simp] theorem State.returned_crc (v : Word) : (s.returned v).crc = s.crc := rfl
@[simp] theorem State.returned_crcm (v : Word) : (s.returned v).crcm = s.crcm := rfl
@[simp] theorem State.returned_ill (v : Word) : (s.returned v).ill = s.ill := rfl
@[simp] theorem State.returned_ovf (v : Word) : (s.returned v).ovf = s.ovf := rfl
@[simp] theorem State.returned_client (v : Word) : (s.returned v).client = s.client := rfl
@[simp] theorem State.returned_pending (v : Word) : (s.returned v).pending = s.pending := rfl
@[simp] theorem State.returned_readback (v : Word) : (s.returned v).readback = s.readback ++ [v] := rfl
@[simp] theorem State.returned_draws (v : Word) : (s.returned v).draws = s.draws := rfl
@[simp] theorem State.returned_unit (v : Word) : (s.returned v).unit = s.unit := rfl

/-! ### place -/

@[simp] theorem State.place_buf (a : Access) : (s.place a).buf = s.buf := rfl
@[simp] theorem State.place_last (a : Access) : (s.place a).last = s.last := rfl
@[simp] theorem State.place_need (a : Access) : (s.place a).need = s.need := rfl
@[simp] theorem State.place_fvalid (a : Access) : (s.place a).fvalid = s.fvalid := rfl
@[simp] theorem State.place_frb (a : Access) : (s.place a).frb = s.frb := rfl
@[simp] theorem State.place_msgid (a : Access) : (s.place a).msgid = s.msgid := rfl
@[simp] theorem State.place_fcrc (a : Access) : (s.place a).fcrc = s.fcrc := rfl
@[simp] theorem State.place_brpos (a : Access) : (s.place a).brpos = s.brpos := rfl
@[simp] theorem State.place_brerr (a : Access) : (s.place a).brerr = s.brerr := rfl
@[simp] theorem State.place_res (a : Access) : (s.place a).res = s.res := rfl
@[simp] theorem State.place_scale (a : Access) : (s.place a).scale = s.scale := rfl
@[simp] theorem State.place_crc (a : Access) : (s.place a).crc = s.crc := rfl
@[simp] theorem State.place_crcm (a : Access) : (s.place a).crcm = s.crcm := rfl
@[simp] theorem State.place_ill (a : Access) : (s.place a).ill = s.ill := rfl
@[simp] theorem State.place_ovf (a : Access) : (s.place a).ovf = s.ovf := rfl
@[simp] theorem State.place_client (a : Access) : (s.place a).client = s.client := rfl
@[simp] theorem State.place_pending (a : Access) : (s.place a).pending = a :: s.pending := rfl
@[simp] theorem State.place_readback (a : Access) : (s.place a).readback = s.readback := rfl
@[simp] theorem State.place_draws (a : Access) : (s.place a).draws = s.draws := rfl
@[simp] theorem State.place_unit (a : Access) : (s.place a).unit = s.unit := rfl

/-! ### softReset -/

@[simp] theorem State.softReset_buf : s.softReset.buf = State.reset.buf := rfl
@[simp] theorem State.softReset_last : s.softReset.last = State.reset.last := rfl
@[simp] theorem State.softReset_need : s.softReset.need = State.reset.need := rfl
@[simp] theorem State.softReset_fvalid : s.softReset.fvalid = State.reset.fvalid := rfl
@[simp] theorem State.softReset_frb : s.softReset.frb = State.reset.frb := rfl
@[simp] theorem State.softReset_msgid : s.softReset.msgid = State.reset.msgid := rfl
@[simp] theorem State.softReset_fcrc : s.softReset.fcrc = State.reset.fcrc := rfl
@[simp] theorem State.softReset_brpos : s.softReset.brpos = State.reset.brpos := rfl
@[simp] theorem State.softReset_brerr : s.softReset.brerr = State.reset.brerr := rfl
@[simp] theorem State.softReset_res : s.softReset.res = State.reset.res := rfl
@[simp] theorem State.softReset_scale : s.softReset.scale = State.reset.scale := rfl
@[simp] theorem State.softReset_crc : s.softReset.crc = State.reset.crc := rfl
@[simp] theorem State.softReset_crcm : s.softReset.crcm = State.reset.crcm := rfl
@[simp] theorem State.softReset_ill : s.softReset.ill = State.reset.ill := rfl
@[simp] theorem State.softReset_ovf : s.softReset.ovf = State.reset.ovf := rfl
@[simp] theorem State.softReset_client : s.softReset.client = s.client := rfl
@[simp] theorem State.softReset_pending : s.softReset.pending = s.pending := rfl
@[simp] theorem State.softReset_readback : s.softReset.readback = s.readback := rfl
@[simp] theorem State.softReset_draws : s.softReset.draws = s.draws := rfl
@[simp] theorem State.softReset_unit : s.softReset.unit = s.unit := rfl

/-! ### reset -/

@[simp] theorem State.reset_buf : State.reset.buf = [] := rfl
@[simp] theorem State.reset_last : State.reset.last = .none := rfl
@[simp] theorem State.reset_need : State.reset.need = 0#11 := rfl
@[simp] theorem State.reset_fvalid : State.reset.fvalid = false := rfl
@[simp] theorem State.reset_frb : State.reset.frb = [] := rfl
@[simp] theorem State.reset_msgid : State.reset.msgid = 0#12 := rfl
@[simp] theorem State.reset_fcrc : State.reset.fcrc = 0#24 := rfl
@[simp] theorem State.reset_brpos : State.reset.brpos = 0#13 := rfl
@[simp] theorem State.reset_brerr : State.reset.brerr = false := rfl
@[simp] theorem State.reset_res : State.reset.res = 0#64 := rfl
@[simp] theorem State.reset_scale : State.reset.scale = 0x3FF0000000000000#64 := rfl
@[simp] theorem State.reset_crc : State.reset.crc = 0#24 := rfl
@[simp] theorem State.reset_crcm : State.reset.crcm = false := rfl
@[simp] theorem State.reset_ill : State.reset.ill = false := rfl
@[simp] theorem State.reset_ovf : State.reset.ovf = false := rfl
@[simp] theorem State.reset_client : State.reset.client = none := rfl
@[simp] theorem State.reset_pending : State.reset.pending = [] := rfl
@[simp] theorem State.reset_readback : State.reset.readback = [] := rfl
@[simp] theorem State.reset_draws : State.reset.draws = 0 := rfl
@[simp] theorem State.reset_unit : State.reset.unit = 0 := rfl

end Sys2Proof.Machine
end

