-- ==== Sys2Proof/Laws/Ops.lean ====
section
/-! SUPPORT. Everything each shared operation can do, said once: the derived registers, the read primitive, the product, the buffer bounds. -/

namespace Sys2Proof.Machine

variable {s t : State}

/-! ### Derived registers -/

theorem State.flen_le (s : State) : s.flen.toNat ≤ 1023 := by
  have := s.flen.isLt; omega

/-- R26, R37: below the frame buffer's capacity FLEN is the number of its valid bytes. -/
theorem State.flen_toNat (h : s.frb.length ≤ 1023) : s.flen.toNat = s.frb.length := by
  simp only [State.flen, BitVec.toNat_ofNat]; omega

/-- FLEN never counts more bytes than the buffer holds, in any state. -/
theorem State.flen_le_length (s : State) : s.flen.toNat ≤ s.frb.length := by
  simp only [State.flen, BitVec.toNat_ofNat]; omega

theorem State.flen_congr (h : t.frb = s.frb) : t.flen = s.flen := by simp only [State.flen, h]

theorem State.limit_congr (h : t.frb = s.frb) : t.limit = s.limit := by simp only [State.limit, State.flen_congr h]

theorem State.payloadBit_congr (h : t.frb = s.frb) : t.payloadBit = s.payloadBit := by
  funext i; simp only [State.payloadBit, h]

/-- R9, R29: the bit capacity, in any state. -/
theorem State.limit_le (s : State) : s.limit ≤ 8184 := by
  have := s.flen_le; simp only [State.limit]; omega

/-! ### The read primitive (R101) -/

theorem State.not_overruns {n : Nat} : ¬ s.overruns n ↔ s.brerr = false ∧ s.brpos.toNat + n ≤ s.limit := by
  simp only [State.overruns, not_or, Bool.not_eq_true, Nat.not_lt]

/-- R101: the failing read. -/
theorem State.readThen_overrun {n : Nat} (k : Nat → State → State) (h : s.overruns n) : s.readThen n k = s.markOverrun := by
  simp only [State.readThen, State.readField, if_pos h]

/-- R101: the read that does not fail. -/
theorem State.readThen_fits {n : Nat} (k : Nat → State → State) (h : ¬ s.overruns n) :
    s.readThen n k = k (fieldValue s.payloadBit s.brpos.toNat n) (s.advance n) := by
  simp only [State.readThen, State.readField, if_neg h]

/-- R101: the two things a command that begins with a read can do. -/
theorem State.readThen_cases (s : State) (n : Nat) (k : Nat → State → State) :
    (s.overruns n ∧ s.readThen n k = s.markOverrun) ∨
      (¬ s.overruns n ∧ s.readThen n k = k (fieldValue s.payloadBit s.brpos.toNat n) (s.advance n)) := by
  by_cases h : s.overruns n
  · exact .inl ⟨h, s.readThen_overrun k h⟩
  · exact .inr ⟨h, s.readThen_fits k h⟩

/-- R39, R101: a read that does not fail advances the cursor by its width without wrapping. -/
theorem State.brpos_add_lt {n : Nat} (h : ¬ s.overruns n) : s.brpos.toNat + n < 2 ^ 13 := by
  have := State.not_overruns.1 h; have := s.limit_le; omega

theorem State.advance_brpos_eq (s : State) (n : Nat) : (s.advance n).brpos = BitVec.ofNat 13 (s.brpos.toNat + n) := by
  apply BitVec.eq_of_toNat_eq; simp

theorem State.advance_brpos_toNat {n : Nat} (h : ¬ s.overruns n) : (s.advance n).brpos.toNat = s.brpos.toNat + n := by
  rw [State.advance_brpos_eq, BitVec.toNat_ofNat, Nat.mod_eq_of_lt (State.brpos_add_lt h)]

/-! ### The product (R106, R107) -/

/-- A product writes RES, and counts a draw where it is a NaN; nothing else changes. -/
theorem State.setProduct_eq (s : State) (x : Word64) :
    (∃ b, mulF64 x s.scale = some b ∧ s.setProduct x = { s with res := b }) ∨
      (mulF64 x s.scale = none ∧
        s.setProduct x = { s with res := nanPattern (Config.freeNan s.unit s.draws x s.scale), draws := s.draws + 1 }) := by
  unfold State.setProduct
  cases mulF64 x s.scale with
  | none => exact .inr ⟨rfl, rfl⟩
  | some b => exact .inl ⟨b, rfl, rfl⟩

/-- K1-10: every drawn pattern is a NaN. -/
theorem nanPattern_isNan (x : Word64) : f64IsNan (nanPattern x) = true := by
  unfold nanPattern
  split
  · assumption
  · have hexp : f64Exponent (x ||| 0x7FF8000000000000#64) = 0x7FF#11 := by
      unfold f64Exponent
      rw [BitVec.extractLsb'_or]
      have : (0x7FF8000000000000#64).extractLsb' 52 11 = BitVec.allOnes 11 := by decide
      rw [this, BitVec.or_allOnes]; rfl
    have hbit : (f64Fraction (x ||| 0x7FF8000000000000#64)).getLsbD 51 = true := by
      simp [f64Fraction]
    have hfrac : f64Fraction (x ||| 0x7FF8000000000000#64) ≠ 0#52 := by
      intro h0; rw [h0] at hbit; simp at hbit
    simp [f64IsNan, hexp, hfrac]

/-! ### The buffers keep their bounds (R36, R37) -/

theorem State.buffersWf_reset : State.reset.buffersWf := by decide

theorem State.buffersWf_append (h : s.buffersWf) (hc : s.cnt ≠ Config.bufCap) (b : Byte) : (s.append b).buffersWf := by
  have hb : s.buf.length ≤ 2048 := h.1
  have hne : s.buf.length ≠ 2048 := hc
  refine ⟨show (s.buf ++ [b]).length ≤ 2048 from ?_, h.2⟩
  simp only [List.length_append, List.length_cons, List.length_nil]; omega

theorem State.buffersWf_discard (h : s.buffersWf) (k : Nat) : (s.discard k).buffersWf := by
  have hb : s.buf.length ≤ 2048 := h.1
  refine ⟨show (s.buf.drop k).length ≤ 2048 from ?_, h.2⟩
  simp only [List.length_drop]; omega

theorem State.buffersWf_latch (h : s.buffersWf) (p : Nat) {len : Nat} (hl : len ≤ 1023) (f : Crc24) : (s.latch p len f).buffersWf := by
  refine ⟨h.1, ?_⟩
  simp only [State.latch_frb, List.length_take]; exact le_trans (Nat.min_le_left ..) hl

theorem State.buffersWf_softReset : s.softReset.buffersWf := by
  refine ⟨?_, ?_⟩ <;> simp

end Sys2Proof.Machine
end

