-- ==== Sys2Proof/Laws/Framer.lean ====
section
/-! SUPPORT. The framer's scan (42_framer.md R141 to R153): what one pass decides, in the spec's index form; where the scan ends; and what more bytes
at the end of the buffer change. -/

namespace Sys2Proof.Machine

/-! ### Reading the buffer at an index -/

@[simp] theorem byteAt_drop (buf : List Byte) (p i : Nat) : byteAt (buf.drop p) i = byteAt buf (p + i) := by
  simp [byteAt, List.getD_eq_getElem?_getD]

theorem byteAt_append {xs : List Byte} (ys : List Byte) {i : Nat} (h : i < xs.length) : byteAt (xs ++ ys) i = byteAt xs i := by
  simp [byteAt, List.getD_eq_getElem?_getD, List.getElem?_append_left h]

theorem headerLength_drop (buf : List Byte) (p : Nat) : headerLength (buf.drop p) = lengthAt buf p := by
  simp [headerLength, lengthField, lengthAt]

theorem trailer_drop (buf : List Byte) (p : Nat) : trailer (buf.drop p) (lengthAt buf p) = trailerAt buf p := by
  simp [trailer, trailerAt, crcField, Nat.add_assoc]

/-- R6: the length field has 10 bits. -/
theorem headerLength_le (xs : List Byte) : headerLength xs ≤ 1023 := by
  have := (lengthField (byteAt xs 1) (byteAt xs 2)).isLt
  simp only [headerLength]; omega

/-! ### One pass -/

/-- R150: what one pass decides, with the condition of each answer. -/
theorem verdict_cases (xs : List Byte) :
    (byteAt xs 0 ≠ 0xD3#8 ∧ verdict xs = none) ∨
    (byteAt xs 0 = 0xD3#8 ∧ xs.length < 3 ∧ verdict xs = some (.need (3 - xs.length))) ∨
    (byteAt xs 0 = 0xD3#8 ∧ 3 ≤ xs.length ∧ (reservedBits (byteAt xs 1) ≠ 0#6 ∨ headerLength xs < 2) ∧ verdict xs = none) ∨
    (byteAt xs 0 = 0xD3#8 ∧ 3 ≤ xs.length ∧ reservedBits (byteAt xs 1) = 0#6 ∧ 2 ≤ headerLength xs ∧ xs.length < headerLength xs + 6 ∧
      verdict xs = some (.need (headerLength xs + 6 - xs.length))) ∨
    (byteAt xs 0 = 0xD3#8 ∧ reservedBits (byteAt xs 1) = 0#6 ∧ 2 ≤ headerLength xs ∧ headerLength xs + 6 ≤ xs.length ∧
      crc24q (xs.take (headerLength xs + 3)) ≠ trailer xs (headerLength xs) ∧ verdict xs = none) ∨
    (byteAt xs 0 = 0xD3#8 ∧ reservedBits (byteAt xs 1) = 0#6 ∧ 2 ≤ headerLength xs ∧ headerLength xs + 6 ≤ xs.length ∧
      crc24q (xs.take (headerLength xs + 3)) = trailer xs (headerLength xs) ∧
      verdict xs = some (.frame (headerLength xs) (trailer xs (headerLength xs)))) := by
  unfold verdict
  by_cases h0 : byteAt xs 0 = 0xD3#8
  · rw [if_neg (not_not.2 h0)]
    by_cases h1 : xs.length < 3
    · exact .inr (.inl ⟨h0, h1, if_pos h1⟩)
    rw [if_neg h1]
    by_cases h2 : reservedBits (byteAt xs 1) = 0#6
    · rw [if_neg (not_not.2 h2)]
      by_cases h3 : headerLength xs < 2
      · exact .inr (.inr (.inl ⟨h0, by omega, .inr h3, if_pos h3⟩))
      rw [if_neg h3]
      by_cases h4 : xs.length < headerLength xs + 6
      · exact .inr (.inr (.inr (.inl ⟨h0, by omega, h2, by omega, h4, if_pos h4⟩)))
      rw [if_neg h4]
      by_cases h5 : crc24q (xs.take (headerLength xs + 3)) = trailer xs (headerLength xs)
      · exact .inr (.inr (.inr (.inr (.inr ⟨h0, h2, by omega, by omega, h5, if_neg (not_not.2 h5)⟩))))
      · exact .inr (.inr (.inr (.inr (.inl ⟨h0, h2, by omega, by omega, h5, if_pos h5⟩))))
    · exact .inr (.inr (.inl ⟨h0, by omega, .inl h2, if_pos h2⟩))
  · exact .inl ⟨h0, if_pos h0⟩

theorem verdict_ne_empty (xs : List Byte) : verdict xs ≠ some .empty := by
  rcases verdict_cases xs with h | h | h | h | h | h <;> simp [h]

/-- R141, R147: the scan moves on exactly where the position is rejected. -/
theorem verdict_eq_none_iff {buf : List Byte} {p : Nat} (hp : p < buf.length) : verdict (buf.drop p) = none ↔ RejectedAt buf p := by
  have hlen : (buf.drop p).length = buf.length - p := List.length_drop
  have hL := headerLength_drop buf p
  have hT := trailer_drop buf p
  rcases verdict_cases (buf.drop p) with h | h | h | h | h | h <;>
    simp only [hL, hT, hlen, byteAt_drop, Nat.add_zero, reservedBits] at h
  · exact iff_of_true h.2 (.inl h.1)
  · refine iff_of_false (by rw [h.2.2]; simp) ?_
    rintro (h' | h' | h') <;> first | exact h' h.1 | omega
  · refine iff_of_true h.2.2.2 (.inr (.inl ⟨by omega, fun h' => ?_⟩))
    rcases h.2.2.1 with h'' | h''
    · exact h'' h'.1
    · exact absurd h'.2 (by omega)
  · refine iff_of_false (by rw [h.2.2.2.2.2]; simp) ?_
    rintro (h' | h' | h')
    · exact h' h.1
    · exact h'.2 ⟨h.2.2.1, h.2.2.2.1⟩
    · omega
  · exact iff_of_true h.2.2.2.2.2 (.inr (.inr ⟨by omega, ⟨h.2.1, h.2.2.1⟩, by omega, h.2.2.2.2.1⟩))
  · refine iff_of_false (by rw [h.2.2.2.2.2]; simp) ?_
    rintro (h' | h' | h')
    · exact h' h.1
    · exact h'.2 ⟨h.2.1, h.2.2.1⟩
    · exact h'.2.2.2 h.2.2.2.2.1

/-- R152: the NEED exit on a short header. -/
theorem verdict_shortHeader {buf : List Byte} {p : Nat} (h : ShortHeaderAt buf p) :
    verdict (buf.drop p) = some (.need (3 - (buf.length - p))) := by
  have hlen : (buf.drop p).length = buf.length - p := List.length_drop
  have h0 : byteAt (buf.drop p) 0 = 0xD3#8 := by simpa using h.1
  unfold verdict
  rw [if_neg (not_not.2 h0), if_pos (by have := h.2; omega), hlen]

/-- R153: the NEED exit on a short frame. -/
theorem verdict_shortFrame {buf : List Byte} {p : Nat} (h : ShortFrameAt buf p) :
    verdict (buf.drop p) = some (.need (lengthAt buf p + 6 - (buf.length - p))) := by
  obtain ⟨hs, h3, ⟨hr, hl⟩, h6⟩ := h
  have hlen : (buf.drop p).length = buf.length - p := List.length_drop
  have h0 : byteAt (buf.drop p) 0 = 0xD3#8 := by simpa using hs
  unfold verdict
  rw [if_neg (not_not.2 h0), if_neg (by omega), if_neg (not_not.2 (by simpa [reservedBits] using hr)), headerLength_drop,
    if_neg (show ¬ lengthAt buf p < 2 by omega), if_pos (by omega), hlen]

/-- R145: the FRAME exit. -/
theorem verdict_accepted {buf : List Byte} {p : Nat} (h : AcceptedAt buf p) :
    verdict (buf.drop p) = some (.frame (lengthAt buf p) (trailerAt buf p)) := by
  obtain ⟨hs, ⟨hr, hl⟩, h6, hc⟩ := h
  have hlen : (buf.drop p).length = buf.length - p := List.length_drop
  have h0 : byteAt (buf.drop p) 0 = 0xD3#8 := by simpa using hs
  unfold verdict
  rw [if_neg (not_not.2 h0), if_neg (by omega), if_neg (not_not.2 (by simpa [reservedBits] using hr)), headerLength_drop,
    if_neg (show ¬ lengthAt buf p < 2 by omega), if_neg (by omega), trailer_drop, if_neg (not_not.2 hc)]

/-- R145, R152, R153: the condition of each exit. -/
theorem verdict_eq_some {buf : List Byte} {p : Nat} {e : Exit} (h : verdict (buf.drop p) = some e) :
    (ShortHeaderAt buf p ∧ e = .need (3 - (buf.length - p))) ∨
    (ShortFrameAt buf p ∧ e = .need (lengthAt buf p + 6 - (buf.length - p))) ∨
    (AcceptedAt buf p ∧ e = .frame (lengthAt buf p) (trailerAt buf p)) := by
  have hlen : (buf.drop p).length = buf.length - p := List.length_drop
  have hL := headerLength_drop buf p
  have hT := trailer_drop buf p
  rcases verdict_cases (buf.drop p) with h' | h' | h' | h' | h' | h' <;>
    simp only [hL, hT, hlen, byteAt_drop, Nat.add_zero, reservedBits, h, reduceCtorEq, and_false, Option.some.injEq] at h'
  · exact .inl ⟨⟨h'.1, by omega⟩, h'.2.2⟩
  · exact .inr (.inl ⟨⟨h'.1, by omega, ⟨h'.2.2.1, h'.2.2.2.1⟩, by omega⟩, h'.2.2.2.2.2⟩)
  · exact .inr (.inr ⟨⟨h'.1, ⟨h'.2.1, h'.2.2.1⟩, by omega, h'.2.2.2.2.1⟩, h'.2.2.2.2.2⟩)

/-! ### The whole scan -/

/-- R150: where the scan ends, and why. -/
theorem scan_spec (xs : List Byte) :
    (∀ i < (scan xs).1, verdict (xs.drop i) = none) ∧
    (((scan xs).1 = xs.length ∧ (scan xs).2 = .empty) ∨ ((scan xs).1 < xs.length ∧ verdict (xs.drop (scan xs).1) = some (scan xs).2)) := by
  induction xs with
  | nil => exact ⟨fun i h => absurd h (Nat.not_lt_zero i), .inl ⟨rfl, rfl⟩⟩
  | cons x xs ih =>
    unfold scan
    cases hv : verdict (x :: xs) with
    | some e => exact ⟨fun i h => absurd h (Nat.not_lt_zero i), .inr ⟨by simp, by simpa using hv⟩⟩
    | none =>
      refine ⟨fun i h => ?_, ?_⟩
      · cases i with
        | zero => exact hv
        | succ i => exact ih.1 i (by simp only at h; omega)
      · rcases ih.2 with h | h
        · exact .inl ⟨by simp [h.1], h.2⟩
        · exact .inr ⟨by simpa using h.1, by simpa using h.2⟩

/-- R147, R158: bytes at which the scan moves on are passed over, whatever follows them. -/
theorem scan_append_rejected (junk xs : List Byte) (h : ∀ i < junk.length, verdict ((junk ++ xs).drop i) = none) :
    scan (junk ++ xs) = ((scan xs).1 + junk.length, (scan xs).2) := by
  induction junk with
  | nil => rfl
  | cons b junk ih =>
    have h0 : verdict (b :: (junk ++ xs)) = none := h 0 (by simp)
    have ih := ih fun i hi => h (i + 1) (by simpa using hi)
    rw [List.cons_append, scan, h0]
    simp only [ih, List.length_cons, Nat.add_assoc]

/-- R150: the scan ends at the first position with an exit. -/
theorem scan_eq {buf : List Byte} {p : Nat} {e : Exit} (hp : p < buf.length) (hrej : ∀ i < p, verdict (buf.drop i) = none)
    (hv : verdict (buf.drop p) = some e) : scan buf = (p, e) := by
  have happ := scan_append_rejected (buf.take p) (buf.drop p) (by
    intro i hi
    rw [List.take_append_drop]
    exact hrej i (by simp only [List.length_take] at hi; omega))
  rw [List.take_append_drop, List.length_take, Nat.min_eq_left (by omega)] at happ
  have hne : buf.drop p ≠ [] := by simpa using hp
  obtain ⟨x, xs, hx⟩ := List.exists_cons_of_ne_nil hne
  have : scan (buf.drop p) = (0, e) := by
    rw [hx, scan, ← hx, hv]
  rw [happ, this]; simp

/-- R151: the scan that finds nothing to act on. -/
theorem scan_eq_empty {buf : List Byte} (h : ∀ p < buf.length, verdict (buf.drop p) = none) : scan buf = (buf.length, .empty) := by
  have := scan_append_rejected buf [] (by simpa using h)
  simpa [scan] using this

/-! ### More bytes at the end -/

theorem headerLength_append {xs : List Byte} (ys : List Byte) (h : 3 ≤ xs.length) : headerLength (xs ++ ys) = headerLength xs := by
  simp only [headerLength, byteAt_append ys (show 1 < xs.length by omega), byteAt_append ys (show 2 < xs.length by omega)]

/-- R157: a decision to move on is not changed by more bytes. -/
theorem verdict_append_none {xs : List Byte} (ys : List Byte) (hne : xs ≠ []) (h : verdict xs = none) : verdict (xs ++ ys) = none := by
  have hpos : 0 < xs.length := List.length_pos_iff.2 hne
  have h0 := byteAt_append ys hpos
  rcases verdict_cases xs with h' | h' | h' | h' | h' | h' <;> simp only [h, reduceCtorEq, and_false, and_true] at h'
  · unfold verdict; rw [h0, if_pos h']
  · have hlen := headerLength_append ys h'.2.1
    have h1 := byteAt_append ys (show 1 < xs.length by omega)
    unfold verdict
    rw [h0, if_neg (not_not.2 h'.1), if_neg (by simp only [List.length_append]; omega), h1, hlen]
    rcases h'.2.2 with hr | hl
    · rw [if_pos hr]
    · by_cases hr : reservedBits (byteAt xs 1) = 0#6
      · rw [if_neg (not_not.2 hr), if_pos hl]
      · rw [if_pos hr]
  · obtain ⟨hs, hr, hl, h6, hc⟩ := h'
    have hlen := headerLength_append ys (show 3 ≤ xs.length by omega)
    have h1 := byteAt_append ys (show 1 < xs.length by omega)
    have htake : (xs ++ ys).take (headerLength xs + 3) = xs.take (headerLength xs + 3) := List.take_append_of_le_length (by omega)
    have htrail : trailer (xs ++ ys) (headerLength xs) = trailer xs (headerLength xs) := by
      simp only [trailer, byteAt_append ys (show headerLength xs + 3 < xs.length by omega),
        byteAt_append ys (show headerLength xs + 4 < xs.length by omega), byteAt_append ys (show headerLength xs + 5 < xs.length by omega)]
    unfold verdict
    rw [h0, if_neg (not_not.2 hs), if_neg (by simp only [List.length_append]; omega), h1, if_neg (not_not.2 hr), hlen,
      if_neg (show ¬ headerLength xs < 2 by omega), if_neg (by simp only [List.length_append]; omega), htake, htrail, if_pos hc]

/-- R157: a decision to accept is not changed by more bytes. -/
theorem verdict_append_frame {xs : List Byte} (ys : List Byte) {len : Nat} {f : Crc24} (h : verdict xs = some (.frame len f)) :
    verdict (xs ++ ys) = some (.frame len f) := by
  rcases verdict_cases xs with h' | h' | h' | h' | h' | h' <;> simp only [h, reduceCtorEq, and_false, Option.some.injEq, Exit.frame.injEq] at h'
  obtain ⟨hs, hr, hl, h6, hc, rfl, rfl⟩ := h'
  have h0 := byteAt_append ys (show 0 < xs.length by omega)
  have hlen := headerLength_append ys (show 3 ≤ xs.length by omega)
  have h1 := byteAt_append ys (show 1 < xs.length by omega)
  have htake : (xs ++ ys).take (headerLength xs + 3) = xs.take (headerLength xs + 3) := List.take_append_of_le_length (by omega)
  have htrail : trailer (xs ++ ys) (headerLength xs) = trailer xs (headerLength xs) := by
    simp only [trailer, byteAt_append ys (show headerLength xs + 3 < xs.length by omega),
      byteAt_append ys (show headerLength xs + 4 < xs.length by omega), byteAt_append ys (show headerLength xs + 5 < xs.length by omega)]
  unfold verdict
  rw [h0, if_neg (not_not.2 hs), if_neg (by simp only [List.length_append]; omega), h1, if_neg (not_not.2 hr), hlen,
    if_neg (show ¬ headerLength xs < 2 by omega), if_neg (by simp only [List.length_append]; omega), htake, htrail, if_neg (not_not.2 hc)]

/-- R157: with more bytes the scan passes over what it passed over before, and goes on from where it ended. -/
theorem scan_append (xs ys : List Byte) :
    scan (xs ++ ys) = ((scan (xs.drop (scan xs).1 ++ ys)).1 + (scan xs).1, (scan (xs.drop (scan xs).1 ++ ys)).2) := by
  have hs := scan_spec xs
  have hle : (scan xs).1 ≤ xs.length := by omega
  have happ := scan_append_rejected (xs.take (scan xs).1) (xs.drop (scan xs).1 ++ ys) (by
    intro i hi
    rw [← List.append_assoc, List.take_append_drop]
    have hi : i < (scan xs).1 := by simp only [List.length_take] at hi; omega
    rw [List.drop_append_of_le_length (by omega)]
    exact verdict_append_none ys (by simp; omega) (hs.1 i hi))
  rw [← List.append_assoc, List.take_append_drop, List.length_take, Nat.min_eq_left hle] at happ
  exact happ

/-- R157: a frame that is found is found in the same place with more bytes behind it. -/
theorem scan_append_frame {xs : List Byte} (ys : List Byte) {p len : Nat} {f : Crc24} (h : scan xs = (p, .frame len f)) :
    scan (xs ++ ys) = (p, .frame len f) := by
  have hs := scan_spec xs
  rw [h] at hs
  obtain ⟨hp, hv⟩ : p < xs.length ∧ verdict (xs.drop p) = some (.frame len f) := by simpa using hs.2
  refine scan_eq (by simp only [List.length_append]; omega) (fun i hi => ?_) ?_
  · rw [List.drop_append_of_le_length (by omega)]
    exact verdict_append_none ys (by simp; omega) (hs.1 i hi)
  · rw [List.drop_append_of_le_length (by omega)]
    exact verdict_append_frame ys hv

end Sys2Proof.Machine
end

