-- ==== Sys2Proof/Laws/Exec.lean ====
section
/-! SUPPORT. What each command can answer: always a next state, and which (30_encoding.md R77). -/

namespace Sys2Proof.Machine

/-- The width of a command's read is a bit-reader command's operand; such a command either fails whole or reads whole (R101, R111). -/
theorem exec_reads {i : Instr} {n : Nat} {s t : State} (hr : Reads i n) (h : exec i s = .next t) :
    (s.overruns n ∧ t = s.markOverrun) ∨
      (¬ s.overruns n ∧ ∃ r d, t = { s.advance n with res := r, draws := d } ∧ ((∃ k, i = .skip k) → r = s.res ∧ d = s.draws)) := by
  cases i <;> simp only [Reads] at hr <;> subst hr <;>
    simp only [exec, execGetu, execGets, execGetsm, execGetf, execGetfs, execSkip, Host.Outcome.next.injEq] at h <;> subst h
  case getu k | gets k | getsm k =>
    rcases s.readThen_cases k.toNat _ with ⟨ho, e⟩ | ⟨ho, e⟩ <;> rw [e]
    · exact .inl ⟨ho, rfl⟩
    · exact .inr ⟨ho, _, _, rfl, by simp⟩
  case getf k | getfs k =>
    rcases s.readThen_cases k.toNat _ with ⟨ho, e⟩ | ⟨ho, e⟩ <;> rw [e]
    · exact .inl ⟨ho, rfl⟩
    · refine .inr ⟨ho, ?_⟩
      rcases State.setProduct_eq (s.advance k.toNat) _ with ⟨b, _, e⟩ | ⟨_, e⟩ <;> rw [e]
      · exact ⟨_, _, rfl, by simp⟩
      · exact ⟨_, _, rfl, by simp⟩
  case skip k =>
    rcases s.readThen_cases k.toNat _ with ⟨ho, e⟩ | ⟨ho, e⟩ <;> rw [e]
    · exact .inl ⟨ho, rfl⟩
    · exact .inr ⟨ho, _, _, rfl, fun _ => ⟨rfl, rfl⟩⟩

/-- R148: the two things PUSH can do. -/
theorem exec_push {b : BitVec 8} {s t : State} (h : exec (.push b) s = .next t) :
    (s.cnt = 2048 ∧ t = s.markOverflow) ∨ (s.cnt ≠ 2048 ∧ t = s.append b) := by
  simp only [exec, execPush] at h
  split at h
  · exact .inl ⟨‹_›, by simpa using h.symm⟩
  · exact .inr ⟨‹_›, by simpa using h.symm⟩

/-- R150 to R154: the three exits of NEXT, with what each leaves. -/
theorem exec_next {s t : State} (h : exec .next s = .next t) :
    (scan s.buf = (s.buf.length, .empty) ∧ t = (s.discard s.buf.length).setExit .empty 0) ∨
    (∃ p k, p < s.buf.length ∧ scan s.buf = (p, .need k) ∧ verdict (s.buf.drop p) = some (.need k) ∧ t = (s.discard p).setExit .need k) ∨
    (∃ p len f, p < s.buf.length ∧ scan s.buf = (p, .frame len f) ∧ verdict (s.buf.drop p) = some (.frame len f) ∧
      t = ((s.latch p len f).discard (p + len + 6)).setExit .frame 0) := by
  simp only [exec, execNext, Host.Outcome.next.injEq] at h
  have hs := scan_spec s.buf
  cases hsc : scan s.buf with | mk p e =>
  rw [hsc] at h hs
  simp only at h hs
  cases e with
  | empty =>
    rcases hs.2 with h' | h'
    · left; rw [h'.1] at h ⊢; exact ⟨rfl, h.symm⟩
    · exact absurd h'.2 (verdict_ne_empty _)
  | need k =>
    rcases hs.2 with h' | h'
    · exact absurd h'.2 (by simp)
    · exact .inr (.inl ⟨p, k, h'.1, rfl, h'.2, h.symm⟩)
  | frame len f =>
    rcases hs.2 with h' | h'
    · exact absurd h'.2 (by simp)
    · exact .inr (.inr ⟨p, len, f, h'.1, rfl, h'.2, h.symm⟩)

/-- R60, R170: every command completes. -/
theorem exec_total (i : Instr) (s : State) : ∃ t, exec i s = .next t := by
  cases i <;>
    simp only [exec, execNop, execSrst, execClrerr, execPush, execNext, execRewind, execGetu, execGets, execGetsm, execGetf, execGetfs, execSkip,
      execCrcinit, execCrcbyte, execCrcchk] <;>
    first
    | exact ⟨_, rfl⟩
    | (split <;> exact ⟨_, rfl⟩)

end Sys2Proof.Machine
end

