-- ==== Sys2Proof/Laws/Fields.lean ====
section
/-! SUPPORT. The bit fields (00_scope.md R12, R13): bounds, the sum form, joining two fields, and the two signed readings. -/

namespace Sys2Proof.Machine

variable (bit : Nat → Bool)

theorem fieldValue_lt (p n : Nat) : fieldValue bit p n < 2 ^ n := by
  induction n with
  | zero => simp [fieldValue]
  | succ n ih =>
    have : (bit (p + n)).toNat ≤ 1 := Bool.toNat_le _
    simp only [fieldValue, pow_succ]; omega

/-- R110: a field of width a + b is the field of its first a bits followed by the field of the other b. -/
theorem fieldValue_add (p a b : Nat) : fieldValue bit p (a + b) = fieldValue bit p a * 2 ^ b + fieldValue bit (p + a) b := by
  induction b with
  | zero => simp [fieldValue]
  | succ b ih =>
    rw [← Nat.add_assoc]
    simp only [fieldValue, ih, Nat.add_assoc, pow_succ]; ring

/-- R12: the sum over the bits, the first with the greatest weight. -/
theorem fieldValue_eq_sum (p n : Nat) : fieldValue bit p n = ∑ k ∈ Finset.range n, (bit (p + k)).toNat * 2 ^ (n - 1 - k) := by
  induction n with
  | zero => simp [fieldValue]
  | succ n ih =>
    rw [fieldValue, ih, Finset.sum_range_succ, Finset.mul_sum]
    congr 1
    · refine Finset.sum_congr rfl fun k hk => ?_
      have hk := Finset.mem_range.1 hk
      rw [show n + 1 - 1 - k = (n - 1 - k) + 1 by omega, pow_succ]; ring
    · simp

theorem fieldSum_eq (s : State) (p n : Nat) : fieldSum s p n = fieldValue s.payloadBit p n := by
  rw [fieldValue_eq_sum]; rfl

/-- The top bit of an n-bit number. -/
theorem testBit_top {n v : Nat} (hn : n ≠ 0) (hv : v < 2 ^ n) : v.testBit (n - 1) = decide (2 ^ (n - 1) ≤ v) := by
  obtain ⟨m, rfl⟩ := Nat.exists_eq_succ_of_ne_zero hn
  rw [Nat.succ_eq_add_one, Nat.add_sub_cancel]
  rw [Nat.testBit_eq_decide_div_mod_eq]
  rw [Nat.succ_eq_add_one, pow_succ] at hv
  by_cases h : 2 ^ m ≤ v
  · have : v / 2 ^ m = 1 := by
      rw [Nat.div_eq_iff (by positivity)]; constructor <;> omega
    simp [this, h]
  · have : v / 2 ^ m = 0 := Nat.div_eq_of_lt (by omega)
    simp [this, h]

theorem signedField_eq {n v : Nat} (hv : v < 2 ^ n) : signedField n v = twosComplement n v := by
  unfold signedField twosComplement
  by_cases hn : n = 0
  · subst hn; simp at hv; simp [hv]
  · rw [if_neg hn, testBit_top hn hv]
    simp only [decide_eq_true_eq, ne_eq, hn, not_false_eq_true, true_and]
    push_cast
    rfl

theorem signMagnitude_eq {n v : Nat} (hv : v < 2 ^ n) : signMagnitude n v = signedMagnitude n v := by
  unfold signMagnitude signedMagnitude
  by_cases hn : n = 0
  · simp [hn]
  · rw [if_neg hn, if_neg hn, testBit_top hn hv]
    obtain ⟨m, rfl⟩ := Nat.exists_eq_succ_of_ne_zero hn
    rw [Nat.succ_eq_add_one, pow_succ] at hv
    simp only [Nat.succ_eq_add_one, Nat.add_sub_cancel, decide_eq_true_eq]
    split
    · rename_i h
      rw [show v = 2 ^ m + (v - 2 ^ m) by omega, Nat.add_mod_left, Nat.mod_eq_of_lt (by omega)]
      push_cast; ring
    · rw [Nat.mod_eq_of_lt (by omega)]

/-- R13: the two's-complement integer of an n-bit field lies in its range, and its 64-bit pattern reads back as it. -/
theorem mod64_toInt {x : Int} (h₁ : -2 ^ 63 ≤ x) (h₂ : x < 2 ^ 63) : (mod64 x).toInt = x := by
  rw [mod64, BitVec.toInt_ofInt, Int.bmod_eq_of_le] <;> norm_num <;> omega

theorem twosComplement_range {n v : Nat} (hn : n ≤ 64) (hv : v < 2 ^ n) :
    -2 ^ 63 ≤ twosComplement n v ∧ twosComplement n v < 2 ^ 63 := by
  unfold twosComplement
  by_cases h0 : n = 0
  · subst h0; simp at hv; simp [hv]
  · have hp : (2 : Nat) ^ (n - 1) ≤ 2 ^ 63 := Nat.pow_le_pow_right (by norm_num) (by omega)
    have h2 : (2 : Nat) ^ n = 2 * 2 ^ (n - 1) := by
      rw [← pow_succ']; congr 1; omega
    have hc : ((2 : Int) ^ n) = ((2 ^ n : Nat) : Int) := by push_cast; rfl
    split
    · rw [hc]; omega
    · rename_i h
      simp only [ne_eq, h0, not_false_eq_true, true_and, not_le] at h
      omega

theorem signedMagnitude_range {n v : Nat} (hn : n ≤ 64) (hv : v < 2 ^ n) :
    -2 ^ 63 ≤ signedMagnitude n v ∧ signedMagnitude n v < 2 ^ 63 := by
  unfold signedMagnitude
  by_cases h0 : n = 0
  · simp [h0]
  · have hp : (2 : Nat) ^ (n - 1) ≤ 2 ^ 63 := Nat.pow_le_pow_right (by norm_num) (by omega)
    have h2 : (2 : Nat) ^ n = 2 * 2 ^ (n - 1) := by
      rw [← pow_succ']; congr 1; omega
    have hc : ((2 : Int) ^ (n - 1)) = ((2 ^ (n - 1) : Nat) : Int) := by push_cast; rfl
    rw [if_neg h0]
    split
    · rw [hc]; omega
    · omega

end Sys2Proof.Machine
end

