-- ==== Sys2Proof/Laws/PerInstr.lean ====
section
/-! SUPPORT. Per command: the word the encoder writes selects the command's row of the opcode map (30_encoding.md R76). -/

namespace Sys2Proof.Laws.Opcode

/-- R76: under the mask of some row of the command's mnemonic, the command's word is that row's match value. -/
def Statement (i : Instr) : Prop :=
  ∃ r ∈ opcodeTable, r.mnemonic = i.mnemonic ∧ encode i &&& r.mask = r.code

/-- A word with the operand field masked off, where the mask keeps the opcode and the operand's zero bits. -/
theorem append_and (opc : BitVec 8) (a m : BitVec 24) (h : a &&& m = 0#24) : (opc ++ a) &&& (0xFF#8 ++ m) = opc ++ 0#24 := by
  have hi : opc &&& 0xFF#8 = opc := BitVec.and_allOnes
  have split_and : (opc ++ a) &&& (0xFF#8 ++ m) = (opc &&& 0xFF#8) ++ (a &&& m) := by
    ext i hlt
    simp only [BitVec.getElem_and, BitVec.getElem_append]
    split <;> rfl
  rw [split_and, h, hi]

theorem byte_and (b : BitVec 8) : (0#16 ++ b : BitVec 24) &&& 0xFFFF00#24 = 0#24 := by revert b; decide

theorem width_and (n : BitVec 7) : (0#17 ++ n : BitVec 24) &&& 0xFFFF80#24 = 0#24 := by revert n; decide

theorem count_and (n : BitVec 14) : (0#10 ++ n : BitVec 24) &&& 0xFFC000#24 = 0#24 := by
  have : (0xFFC000#24) = 0x3FF#10 ++ 0#14 := by decide
  rw [this]
  ext i hi
  simp only [BitVec.getElem_and, BitVec.getElem_append]
  split <;> simp

theorem value_and (v : BitVec 24) : v &&& 0x000000#24 = 0#24 := by simp

theorem nop : Statement .nop := ⟨opcodeTable[0], by decide, rfl, by decide⟩
theorem srst : Statement .srst := ⟨opcodeTable[1], by decide, rfl, by decide⟩
theorem clrerr : Statement .clrerr := ⟨opcodeTable[2], by decide, rfl, by decide⟩
theorem push (b : BitVec 8) : Statement (.push b) := ⟨opcodeTable[3], by decide, rfl, append_and _ _ _ (byte_and b)⟩
theorem next : Statement .next := ⟨opcodeTable[4], by decide, rfl, by decide⟩
theorem rewind : Statement .rewind := ⟨opcodeTable[5], by decide, rfl, by decide⟩
theorem getu (n : BitVec 7) : Statement (.getu n) := ⟨opcodeTable[6], by decide, rfl, append_and _ _ _ (width_and n)⟩
theorem gets (n : BitVec 7) : Statement (.gets n) := ⟨opcodeTable[7], by decide, rfl, append_and _ _ _ (width_and n)⟩
theorem getsm (n : BitVec 7) : Statement (.getsm n) := ⟨opcodeTable[8], by decide, rfl, append_and _ _ _ (width_and n)⟩
theorem getf (n : BitVec 7) : Statement (.getf n) := ⟨opcodeTable[9], by decide, rfl, append_and _ _ _ (width_and n)⟩
theorem getfs (n : BitVec 7) : Statement (.getfs n) := ⟨opcodeTable[10], by decide, rfl, append_and _ _ _ (width_and n)⟩
theorem skip (n : BitVec 14) : Statement (.skip n) := ⟨opcodeTable[11], by decide, rfl, append_and _ _ _ (count_and n)⟩
theorem crcinit : Statement .crcinit := ⟨opcodeTable[12], by decide, rfl, by decide⟩
theorem crcbyte (b : BitVec 8) : Statement (.crcbyte b) := ⟨opcodeTable[13], by decide, rfl, append_and _ _ _ (byte_and b)⟩
theorem crcchk (v : BitVec 24) : Statement (.crcchk v) := ⟨opcodeTable[14], by decide, rfl, append_and _ _ _ (value_and v)⟩

end Sys2Proof.Laws.Opcode
end

