-- ==== Sys2Proof/Laws/Step.lean ====
section
/-! SUPPORT. The register window and one step: which offsets are registers, when an access is served, and what a step can do (20_memory.md R56 to
R65). -/

namespace Sys2Proof.Machine

/-- R21: each register is found at its offset. -/
@[simp] theorem regAt_offset (r : Reg) : regAt r.offset = some r := by cases r <;> decide

/-- R21: what is found at an offset is the register of that offset. -/
theorem regAt_eq_some {off : Int} {r : Reg} (h : regAt off = some r) : off = r.offset := by
  have h := List.find?_some h
  exact (beq_iff_eq.1 h).symm

/-- R21: every register's offset is a multiple of 4 inside the window. -/
theorem Reg.offset_mod (r : Reg) : (r.offset : Int) % 4 = 0 := by cases r <;> decide

theorem Reg.offset_lt (r : Reg) : r.offset < 0x40 := by cases r <;> decide

/-- R56: inside the window every multiple of 4 is the offset of a register. -/
theorem exists_reg {off : Int} (h0 : 0 ≤ off) (h1 : off < 0x40) (h4 : off % 4 = 0) : ∃ r, regAt off = some r := by
  obtain ⟨n, rfl⟩ := Int.eq_ofNat_of_zero_le h0
  have : ∀ n : Fin 64, (n.val : Int) % 4 = 0 → (regAt n.val).isSome = true := by decide
  exact Option.isSome_iff_exists.1 (this ⟨n, by omega⟩ h4)

/-- R56: outside the window there is no register. -/
theorem regAt_eq_none {off : Int} (h : ¬ (0 ≤ off ∧ off < 0x40)) : regAt off = none := by
  cases hr : regAt off with
  | none => rfl
  | some r =>
    have := regAt_eq_some hr; have := r.offset_lt; omega

/-- R56, R65: an access that is served is its effect on the state with the access taken. -/
theorem serve_defined {s : State} {a : Access} {rest : List Access} {r : Reg} (hc : s.serves a.agent) (hw : a.width = 32)
    (ho : a.off = r.offset) : serve a rest s = perform r a.kind (s.taken a.agent rest) := by
  unfold serve
  rw [if_neg (not_not.2 hc), if_neg (not_not.2 hw), if_neg (not_not.2 (by rw [ho]; exact r.offset_mod)), ho, regAt_offset]

/-- R77: every CMD write completes. -/
theorem execute_total (w : Word) (s : State) : ∃ t, execute w s = .next t := by
  unfold execute
  split
  · exact exec_total _ s
  · exact ⟨_, rfl⟩

/-- R58, R59, R60: every access of a register completes. -/
theorem perform_total (r : Reg) (k : AccessKind) (s : State) : ∃ t, perform r k s = .next t := by
  cases k with
  | read => exact ⟨_, rfl⟩
  | write v => cases r <;> first | exact execute_total v s | exact ⟨_, rfl⟩

/-- R4, R56, R65: a step that answers a next state was idle or served one defined access of the block's client. -/
theorem step_cases {s t : State} (h : step s = .next t) :
    (s.pending = [] ∧ t = s) ∨
    (∃ a rest r, s.pending = a :: rest ∧ s.serves a.agent ∧ a.width = 32 ∧ a.off = ((r : Reg).offset : Int) ∧
      perform r a.kind (s.taken a.agent rest) = .next t) := by
  unfold step at h
  split at h
  · exact .inl ⟨‹_›, by simpa using h.symm⟩
  · rename_i a rest hp
    refine .inr ⟨a, rest, ?_⟩
    unfold serve at h
    split at h
    · cases h
    rename_i hc
    split at h
    · cases h
    rename_i hw
    split at h
    · cases h
    split at h
    · cases h
    rename_i r hr
    exact ⟨r, hp, not_not.1 hc, not_not.1 hw, regAt_eq_some hr, h⟩

/-- R59, R77: what a write can do. -/
theorem perform_write_cases {r : Reg} {v : Word} {s t : State} (h : perform r (.write v) s = .next t) :
    (r = .cmd ∧ ((∃ i, decode v = .ok i ∧ exec i s = .next t) ∨ ((∃ e, decode v = .error e) ∧ t = s.markIllegal))) ∨
    (r = .scaleLo ∧ t = s.setScaleLo v) ∨ (r = .scaleHi ∧ t = s.setScaleHi v) ∨ (r ≠ .cmd ∧ r ≠ .scaleLo ∧ r ≠ .scaleHi ∧ t = s) := by
  cases r
  case cmd =>
    refine .inl ⟨rfl, ?_⟩
    simp only [perform, mmioWrite, execute] at h
    split at h
    · exact .inl ⟨_, ‹_›, h⟩
    · exact .inr ⟨⟨_, ‹_›⟩, by simpa using h.symm⟩
  case scaleLo => exact .inr (.inl ⟨rfl, by simpa [perform, mmioWrite] using h.symm⟩)
  case scaleHi => exact .inr (.inr (.inl ⟨rfl, by simpa [perform, mmioWrite] using h.symm⟩))
  all_goals exact .inr (.inr (.inr ⟨by decide, by decide, by decide, by simpa [perform, mmioWrite] using h.symm⟩))

end Sys2Proof.Machine
end

