-- ==== Sys2Proof/Tests/Slice0.lean ====
section
/-! SUPPORT. The model's own tests, with values from 30_encoding.md and 95_test_vectors.md, and for every obligation with hypotheses a state and
operands that meet them. -/

namespace Sys2Proof.Tests

open Sys2Proof.Machine

/-! ### Small states -/

/-- The state a command leaves, if it completes. -/
def after (i : Instr) (s : State) : Option State :=
  match exec i s with
  | .next t => some t
  | .fault _ => none
  | .refused _ => none

/-- V-F1: frame X. -/
def frameX : List Byte := [0xD3#8, 0x00#8, 0x06#8, 0x3E#8, 0xD0#8, 0xF0#8, 0x0F#8, 0x80#8, 0x01#8, 0x17#8, 0x26#8, 0x03#8]

/-- V-F2: frame Y. -/
def frameY : List Byte := [0xD3#8, 0x00#8, 0x02#8, 0x3E#8, 0xD0#8, 0xA4#8, 0xE0#8, 0x00#8]

/-- From reset, with the given bytes in the input buffer. -/
def holding (buf : List Byte) : State := { State.reset with buf := buf }

/-- From reset, with the given payload latched, as R154 latches it. -/
def latched (frb : List Byte) (msgid : BitVec 12) (fcrc : Crc24) : State :=
  { State.reset with last := .frame, fvalid := true, frb := frb, msgid := msgid, fcrc := fcrc }

/-- V-F1: frame X latched. -/
def stateX : State := latched [0x3E#8, 0xD0#8, 0xF0#8, 0x0F#8, 0x80#8, 0x01#8] 0x3ED#12 0x172603#24

/-- V-B27: frame F8 latched. -/
def stateF8 : State := latched (List.replicate 8 0xFF#8) 0xFFF#12 0x623545#24

/-- V-B36: frame F80 latched. -/
def stateF80 : State := latched (0x80#8 :: List.replicate 7 0x00#8) 0x800#12 0x359BEE#24

/-- A frame of the greatest length: the payload is the CRC of the header (so that the CRC is 0 from there on, 41_crc.md R123) and 1020 zero bytes. -/
def longFrame : List Byte := [0xD3#8, 0x03#8, 0xFF#8, 0x31#8, 0xFE#8, 0xAB#8] ++ List.replicate 1023 0x00#8

/-- One access of agent 0. -/
def access (off : Int) (k : AccessKind) : Access := { agent := 0, off := off, width := 32, kind := k }

/-- s with the given accesses to come. -/
def withAccesses (s : State) (l : List Access) : State := { s with pending := l }

/-- Which refusal a step ends in, if any. -/
def refusalOf (s : State) : Option Refusal :=
  match step s with
  | .next _ => none
  | .fault _ => none
  | .refused r => some r

/-- The state a step leaves, if it completes. -/
def stepped (s : State) : Option State :=
  match step s with
  | .next t => some t
  | .fault _ => none
  | .refused _ => none

/-! ### Well-formedness (R73): each check refuses the width 65 and passes 64 -/

theorem test_illformed_getu : Instr.wellFormed (.getu 65#7) = false ∧ Instr.wellFormed (.getu 64#7) = true := by decide
theorem test_illformed_gets : Instr.wellFormed (.gets 65#7) = false ∧ Instr.wellFormed (.gets 64#7) = true := by decide
theorem test_illformed_getsm : Instr.wellFormed (.getsm 65#7) = false ∧ Instr.wellFormed (.getsm 64#7) = true := by decide
theorem test_illformed_getf : Instr.wellFormed (.getf 65#7) = false ∧ Instr.wellFormed (.getf 64#7) = true := by decide
theorem test_illformed_getfs : Instr.wellFormed (.getfs 65#7) = false ∧ Instr.wellFormed (.getfs 64#7) = true := by decide

/-! ### Decoding: every constructor from a word written out from R71's diagrams and R76's table, opcode byte first -/

theorem test_decode_nop : decode 0b00000000_000000000000000000000000#32 = .ok .nop := by decide
theorem test_decode_srst : decode 0b00000001_000000000000000000000000#32 = .ok .srst := by decide
theorem test_decode_clrerr : decode 0b00000010_000000000000000000000000#32 = .ok .clrerr := by decide
theorem test_decode_push : decode 0b00010000_0000000000000000_11010011#32 = .ok (.push 0xD3#8) := by decide
theorem test_decode_next : decode 0b00010001_000000000000000000000000#32 = .ok .next := by decide
theorem test_decode_rewind : decode 0b00100000_000000000000000000000000#32 = .ok .rewind := by decide
theorem test_decode_getu : decode 0b00100001_00000000000000000_0001100#32 = .ok (.getu 12#7) := by decide
theorem test_decode_gets : decode 0b00100010_00000000000000000_1000000#32 = .ok (.gets 64#7) := by decide
theorem test_decode_getsm : decode 0b00100011_00000000000000000_0011011#32 = .ok (.getsm 27#7) := by decide
theorem test_decode_getf : decode 0b00100100_00000000000000000_0001010#32 = .ok (.getf 10#7) := by decide
theorem test_decode_getfs : decode 0b00100101_00000000000000000_0001000#32 = .ok (.getfs 8#7) := by decide
theorem test_decode_skip : decode 0b00100110_0000000000_11111111111111#32 = .ok (.skip 16383#14) := by decide
theorem test_decode_crcinit : decode 0b00110000_000000000000000000000000#32 = .ok .crcinit := by decide
theorem test_decode_crcbyte : decode 0b00110001_0000000000000000_10000000#32 = .ok (.crcbyte 0x80#8) := by decide
theorem test_decode_crcchk : decode 0b00110010_110011011110011100000011#32 = .ok (.crcchk 0xCDE703#24) := by decide

/-- V-E: operand bits that must be 0. -/
theorem test_decode_reserved_bits :
    [0x00000001#32, 0x01000001#32, 0x02800000#32, 0x10000100#32, 0x11000001#32, 0x20000001#32, 0x21000080#32, 0x26004000#32, 0x30000001#32,
      0x31000100#32].all (fun w => decide (decode w = .error .reservedOperandBit)) = true := by decide

/-- V-E: widths above 64. -/
theorem test_decode_widths :
    [0x21000041#32, 0x2100007F#32, 0x22000041#32].all (fun w => decide (decode w = .error .widthOutOfRange)) = true := by decide

/-- V-E: reserved opcodes. -/
theorem test_decode_reserved_opcodes :
    [0x03000000#32, 0x0F000000#32, 0x12000000#32, 0x1F000000#32, 0x27000000#32, 0x2F000000#32, 0x33000000#32, 0x40000000#32,
      0xFF000000#32].all (fun w => decide (decode w = .error .reservedOpcode)) = true := by decide

/-! ### One command -/

/-- V-K1. -/
theorem test_nop : after .nop stateX = some stateX := by decide

/-- V-K2, V-K3. -/
theorem test_srst :
    after .srst { stateX with scale := 0x3FE0000000000000#64, crc := 0xCDE703#24, res := 1#64, need := 1014#11, buf := frameX } =
      some State.reset := by decide

/-- V-K4. -/
theorem test_clrerr :
    (after .clrerr { State.reset with ill := true, ovf := true, brerr := true, crcm := true }).map (·.status) = some 0x18#32 := by decide

/-- V-F15a: a PUSH on the full buffer. -/
theorem test_push_full : (after (.push 0xD3#8) (holding (List.replicate 2048 0xFF#8))).map (fun t => (t.cnt, t.status)) = some (2048, 0xC0#32) := by
  decide +kernel

/-- V-F10, P3: PUSH leaves LAST and NEED. -/
theorem test_push_keeps_need :
    (after (.push 0x0F#8) { holding [0xD3#8, 0x00#8] with last := .need, need := 1#11 }).map (fun t => (t.buf, t.last, t.need)) =
      some ([0xD3#8, 0x00#8, 0x0F#8], .need, 1#11) := by decide

/-- V-F6: two junk bytes before frame X, with frame Y behind it. -/
theorem test_next_frame :
    (after .next (holding ([0xFF#8, 0xFF#8] ++ frameX ++ frameY))).map (fun t => (t.buf, t.frb, t.msgid, t.fcrc, t.status)) =
      some (frameY, stateX.frb, 0x3ED#12, 0x172603#24, 0x05#32) := by decide +kernel

/-- V-F5, V-F5a, V-F5b, V-F5c, V-F10, V-F10a, V-F11, V-F11a: the count of each NEED exit, and what stays in the buffer. -/
theorem test_next_need :
    [([0xD3#8], 2, 1), ([0xD3#8, 0x00#8], 1, 2), ([0xD3#8, 0xD3#8], 1, 2), ([0xFF#8, 0xD3#8], 2, 1), (frameX.take 5, 7, 5), (frameX.take 11, 1, 11),
      ([0xD3#8, 0x03#8, 0xFF#8], 1026, 3), ([0xD3#8, 0x03#8, 0xFF#8] ++ frameX, 1014, 15)].all (fun (buf, need, cnt) =>
        (after .next (holding buf)).map (fun t => (t.last, t.need.toNat, t.cnt)) == some (.need, need, cnt)) = true := by decide +kernel

/-- V-B46. -/
theorem test_rewind : (after .rewind { stateX with brerr := true, brpos := 48#13 }).map (fun t => (t.brpos, t.brerr)) = some (0#13, false) := by decide

/-- V-B3: a read that ends on the last bit. -/
theorem test_getu : (after (.getu 48#7) stateX).map (fun t => (t.res, t.brpos)) = some (0x00003ED0F00F8001#64, 48#13) := by decide +kernel

/-- V-B4, V-B6: one bit too many. -/
theorem test_getu_overrun : (after (.getu 49#7) stateX).map (fun t => (t.res, t.brpos, t.brerr)) = some (0#64, 0#13, true) := by decide +kernel

/-- V-B14. -/
theorem test_gets : (after (.gets 16#7) { stateX with brpos := 32#13 }).map (·.res) = some 0xFFFFFFFFFFFF8001#64 := by decide +kernel

/-- V-B28. -/
theorem test_gets_64 : (after (.gets 64#7) stateF8).map (·.res) = some 0xFFFFFFFFFFFFFFFF#64 := by decide +kernel

/-- V-B13. -/
theorem test_getsm : (after (.getsm 16#7) { stateX with brpos := 32#13 }).map (·.res) = some 0xFFFFFFFFFFFFFFFF#64 := by decide +kernel

/-- V-B12: a negative zero. -/
theorem test_getsm_minus_zero : (after (.getsm 8#7) { stateX with brpos := 32#13 }).map (·.res) = some 0#64 := by decide +kernel

/-- V-B31: 2^64 - 1 rounds up. -/
theorem test_getf_rounds : (after (.getf 64#7) stateF8).map (·.res) = some 0x43F0000000000000#64 := by decide +kernel

/-- V-B34: 7 * 0.1. -/
theorem test_getf_scaled :
    (after (.getf 3#7) { stateF8 with scale := 0x3FB999999999999A#64 }).map (·.res) = some 0x3FE6666666666667#64 := by decide +kernel

/-- V-B18. -/
theorem test_getfs : (after (.getfs 8#7) { stateX with brpos := 16#13, scale := 0x3FE0000000000000#64 }).map (·.res) = some 0xC020000000000000#64 := by
  decide +kernel

/-- V-B36. -/
theorem test_getfs_64 : (after (.getfs 64#7) stateF80).map (·.res) = some 0xC3E0000000000000#64 := by decide +kernel

/-- V-B20, V-B22: SKIP to the end, and past it. -/
theorem test_skip :
    (after (.skip 48#14) stateX).map (fun t => (t.brpos, t.brerr)) = some (48#13, false) ∧
    (after (.skip 49#14) stateX).map (fun t => (t.brpos, t.brerr)) = some (0#13, true) := by decide +kernel

/-- V-C4: CRCM stays. -/
theorem test_crcinit : (after .crcinit { State.reset with crc := 0xCDE703#24, crcm := true }).map (fun t => (t.crc, t.crcm)) = some (0#24, true) := by
  decide

/-- V-C1: the seventh byte of the check string. -/
theorem test_crcbyte : (after (.crcbyte 0x37#8) { State.reset with crc := 0xBCEFC7#24 }).map (·.crc) = some 0x71986B#24 := by decide +kernel

/-- V-C4. -/
theorem test_crcchk :
    (after (.crcchk 0xCDE703#24) { State.reset with crc := 0xCDE703#24 }).map (·.status) = some 0x10#32 ∧
    (after (.crcchk 0xCDE704#24) { State.reset with crc := 0xCDE703#24, crcm := true }).map (·.status) = some 0x00#32 := by decide +kernel

/-- V-C1, V-C2: the function. -/
theorem test_crc :
    crc24q [0x31#8, 0x32#8, 0x33#8, 0x34#8, 0x35#8, 0x36#8, 0x37#8, 0x38#8, 0x39#8] = 0xCDE703#24 ∧ crc24q [] = 0#24 ∧
    crc24q [0x01#8, 0x00#8] = 0x668F48#24 := by decide +kernel

/-! ### The host interface -/

/-- V-R1: the window from reset. -/
theorem test_reset_window :
    registers.map State.reset.readReg =
      [0#32, 0#32, 0#32, 0#32, 0#32, 0#32, 0#32, 0#32, 0#32, 0#32, 0#32, 0x3FF00000#32, 0#32, 0#32, 0#32, 0#32] := by decide

/-- V-R6: FLEN, MSGID and FCRC as the host reads them. -/
theorem test_read_frame_registers :
    ((Host.Core.run Sys2Proof.core 3 (withAccesses stateX [access 0x10 .read, access 0x14 .read, access 0x18 .read])) |> fun o =>
      match o with | .next t => some (State.readback t) | .fault _ => none | .refused _ => none) =
      some [0x00000006#32, 0x000003ED#32, 0x00172603#32] := by decide

/-- V-R4: one half of SCALE. -/
theorem test_scale_high_half :
    (stepped (withAccesses State.reset [access 0x2C (.write 0x40000000#32)])).map (·.scale) = some 0x4000000000000000#64 := by decide

/-- V-R2: a write to a read-only register. -/
theorem test_read_only_write :
    (stepped (withAccesses stateX [access 0x30 (.write 0xFFFFFFFF#32)])) = some { stateX with client := some 0 } := by decide

/-- 60_exceptions.md R174: an illegal read sets ILL only. -/
theorem test_illegal_word :
    (stepped (withAccesses State.reset [access 0x00 (.write 0x22000041#32)])).map (·.status) = some 0x20#32 := by decide

/-- R56, R65: each refusal. -/
theorem test_refusals :
    refusalOf (withAccesses State.reset [{ access 0x00 .read with width := 16 }]) = some .accessWidth ∧
    refusalOf (withAccesses State.reset [access 0x02 .read]) = some .accessMisaligned ∧
    refusalOf (withAccesses State.reset [access 0x40 .read]) = some .accessOutsideWindow ∧
    refusalOf (withAccesses State.reset [access (-4) .read]) = some .accessOutsideWindow ∧
    refusalOf (withAccesses { State.reset with client := some 1 } [access 0x00 .read]) = some .secondAgent := by decide

/-- The host's own question: the word of a command, placed as the next access, runs first. -/
theorem test_withFetchWord : (stepped (State.reset.withFetchWord 32 0x100000D3)).map (·.buf) = some [0xD3#8] := by decide

/-- R80, R81: lines of text, with the accesses of 95_test_vectors.md P8 and P9. -/
theorem test_assemble_text :
    assembleText 0 "SETSCALE 0x3FE0000000000000 ; 0.5" = some [access 0x28 (.write 0#32), access 0x2C (.write 0x3FE00000#32)] ∧
    assembleText 0 "SETSCALE 0.5" = some [access 0x28 (.write 0#32), access 0x2C (.write 0x3FE00000#32)] ∧
    assembleText 0 "WR CMD, 0x22000041" = some [access 0x00 (.write 0x22000041#32)] ∧
    assembleText 0 "RDRES" = some [access 0x20 .read, access 0x24 .read] ∧
    assembleText 0 "GETS 65" = none := by decide +kernel

/-! ### Witnesses: the hypotheses of each obligation can be met -/

/-- DecodeInvertsEncode. -/
theorem witness_DecodeInvertsEncode : Instr.WellFormed (.getu 64#7) ∧ Instr.WellFormed (.skip 16383#14) := by decide

/-- EncodeInvertsDecode. -/
theorem witness_EncodeInvertsDecode : decode 0x21000040#32 = .ok (.getu 64#7) := by decide

/-- WordSelectsItsTableRow: a format-W row at the greatest legal width. -/
theorem witness_WordSelectsItsTableRow :
    ∃ r ∈ opcodeTable, r.mnemonic = "GETU" ∧ 0x21000040#32 &&& r.mask = r.code ∧ (r.format = .W → (BitVec.extractLsb' 0 7 0x21000040#32).toNat ≤ 64) := by
  decide

/-- IllegalWordSetsOnlyIll: a word that decodes; and a word of each of (a), (b) and (c), which selects no row. -/
theorem witness_IllegalWordSetsOnlyIll :
    decode 0x32FFFFFF#32 = .ok (.crcchk 0xFFFFFF#24) ∧
    (∀ r ∈ opcodeTable, r.code.extractLsb' 24 8 ≠ BitVec.extractLsb' 24 8 0x03000000#32) ∧
    (∃ r ∈ opcodeTable, r.code.extractLsb' 24 8 = BitVec.extractLsb' 24 8 0x10000100#32 ∧ 0x10000100#32 &&& r.mask ≠ r.code) ∧
    (∃ r ∈ opcodeTable, r.format = .W ∧ 0x21000041#32 &&& r.mask = r.code ∧ 65 ≤ (BitVec.extractLsb' 0 7 0x21000041#32).toNat) ∧
    (∀ r ∈ opcodeTable, ¬ r.selectedBy 0x03000000#32) ∧ (∀ r ∈ opcodeTable, ¬ r.selectedBy 0x10000100#32) ∧
    (∀ r ∈ opcodeTable, ¬ r.selectedBy 0x21000041#32) := by
  simp only [OpcodeRow.selectedBy]
  exact ⟨by decide, by decide, by decide, by decide, by decide, by decide, by decide⟩

/-- ReservedOpcodesAreIllegal: both ends of each range. -/
theorem witness_ReservedOpcodesAreIllegal :
    ∀ opc ∈ [0x03#8, 0x0F#8, 0x12#8, 0x1F#8, 0x27#8, 0x2F#8, 0x33#8, 0xFF#8],
      (0x03 ≤ opc.toNat ∧ opc.toNat ≤ 0x0F) ∨ (0x12 ≤ opc.toNat ∧ opc.toNat ≤ 0x1F) ∨ (0x27 ≤ opc.toNat ∧ opc.toNat ≤ 0x2F) ∨ 0x33 ≤ opc.toNat := by
  decide

/-- StepRunsTheCommandWritten: a legal and an illegal word, with a client and without. -/
theorem witness_StepRunsTheCommandWritten :
    State.reset.serves 0 ∧ { State.reset with client := some 3 }.serves 3 ∧
    (withAccesses State.reset [access 0 (.write 0x11000000#32)]).pending = { agent := 0, off := 0, width := 32, kind := .write 0x11000000#32 } :: [] ∧
    decode 0x11000000#32 = .ok .next ∧ decode 0x11000001#32 = .error .reservedOperandBit := by decide

/-- ReadsChangeNoState: the register of the highest offset. -/
theorem witness_ReadsChangeNoState :
    (withAccesses State.reset [access 0x3C .read]).serves 0 ∧
    (withAccesses State.reset [access 0x3C .read]).pending = { agent := 0, off := Reg.reserved3C.offset, width := 32, kind := .read } :: [] := by decide

/-- RegisterMapReadsItsFields: both buffers full. -/
theorem witness_RegisterMapReadsItsFields :
    (List.replicate 2048 0xFF#8 : List Byte).length ≤ 2048 ∧ (List.replicate 1023 0xFF#8 : List Byte).length ≤ 1023 := by
  decide +kernel

/-- StatusFieldsAtTheirBits: a state of each LAST, at both values of FULL. -/
theorem witness_StatusFieldsAtTheirBits :
    State.reset.last = .none ∧ stateX.last = .frame ∧ { State.reset with last := .need, need := 2#11 }.last = .need ∧
    { State.reset with last := .empty }.last = .empty ∧ (holding (List.replicate 2048 0xFF#8)).full = true ∧
    (holding (List.replicate 2047 0xFF#8)).full = false := by decide +kernel

/-- WritesReachOnlyCmdAndScale: a register for each clause. -/
theorem witness_WritesReachOnlyCmdAndScale :
    State.reset.serves 0 ∧ Reg.cmd.offset = 0x00 ∧ Reg.scaleLo.offset = 0x28 ∧ Reg.scaleHi.offset = 0x2C ∧
    (∀ r ∈ [Reg.status, Reg.resHi, Reg.crc, Reg.reserved3C], r.offset ≠ 0x00 ∧ r.offset ≠ 0x28 ∧ r.offset ≠ 0x2C) ∧
    (withAccesses State.reset [access 0x2C (.write 1#32)]).pending = { agent := 0, off := Reg.scaleHi.offset, width := 32, kind := .write 1#32 } :: [] := by
  decide

/-- UndefinedAccessesAreRefused: the ends of the window, and one access of each undefined kind. -/
theorem witness_UndefinedAccessesAreRefused :
    State.reset.serves (access 0x3C .read).agent ∧ (withAccesses State.reset [access 0x3C .read]).pending = access 0x3C .read :: [] ∧
    (∀ a ∈ [access 0x00 .read, access 0x3C .read], a.width = 32 ∧ a.off % 4 = 0 ∧ 0 ≤ a.off ∧ a.off < 0x40) ∧
    (∀ a ∈ [access 0x40 .read, access (-4) .read, access 0x3F .read, { access 0x00 .read with width := 64 }],
      ¬ (a.width = 32 ∧ a.off % 4 = 0 ∧ 0 ≤ a.off ∧ a.off < 0x40)) := by decide

/-- SecondAgentIsRefused: agent 0 resets the block and agent 1 follows. -/
theorem witness_SecondAgentIsRefused :
    (access 0x00 (.write 0x01000000#32)).agent ≠ ({ access 0x04 .read with agent := 1 } : Access).agent ∧
    stepped (withAccesses State.reset [access 0x00 (.write 0x01000000#32), { access 0x04 .read with agent := 1 }]) =
      some { State.reset with client := some 0, pending := [{ access 0x04 .read with agent := 1 }] } := by decide

/-- DefinedAccessesAllComplete: no access, and a write followed by a read. -/
theorem witness_DefinedAccessesAllComplete :
    State.reset.serves 0 ∧ (∀ a ∈ State.reset.pending, a.agent = 0 ∧ a.Defined) ∧
    (∀ a ∈ [access 0x00 (.write 0x11000000#32), access 0x04 .read], a.agent = 0 ∧ a.Defined) := by
  refine ⟨by decide, fun a ha => absurd ha List.not_mem_nil, fun a ha => ?_⟩
  simp only [List.mem_cons, List.not_mem_nil, or_false] at ha
  rcases ha with rfl | rfl
  · exact ⟨rfl, rfl, .cmd, rfl⟩
  · exact ⟨rfl, rfl, .status, rfl⟩

/-- IdleBlockKeepsItsState. -/
theorem witness_IdleBlockKeepsItsState : State.reset.pending = [] ∧ stateX.pending = [] := by decide

/-- InstancesShareNothing: two platforms with one instance in common, whose step completes; one whose step is refused; and a number of no instance. -/
theorem witness_InstancesShareNothing :
    let s : State := withAccesses State.reset [access 0 (.write 0x10000001#32)]
    let bad : State := withAccesses State.reset [access 0x40 .read]
    let p : Platform := ⟨[s, bad]⟩
    let q : Platform := ⟨[s, bad, stateX]⟩
    p.instances[0]? = q.instances[0]? ∧ p.instances[0]? = some s ∧ step s = .next { holding [0x01#8] with client := some 0 } ∧
    p.instances[1]? = q.instances[1]? ∧ p.instances[1]? = some bad ∧ step bad = .refused .accessOutsideWindow ∧
    p.instances[7]? = q.instances[7]? ∧ p.instances[7]? = none := by
  refine ⟨by decide, by decide, rfl, by decide, by decide, rfl, by decide, by decide⟩

/-- AssemblerEncodesOnlyLegalWords: the greatest operand accepted and the least refused, for each kind of operand. -/
theorem witness_AssemblerEncodesOnlyLegalWords :
    (Instr.WellFormed (.getfs 64#7) ∧ operandOf (.getfs 64#7) = some 64 ∧ Instr.WellFormed .crcinit ∧ operandOf .crcinit = none) ∧
    assembleCommand "NEXT" none = some .next ∧
    (assembleCommand "GETU" (some 64) = some (.getu 64#7) ∧ 64 < 65 ∧ assembleCommand "GETU" (some 65) = none) ∧
    (assembleCommand "PUSH" (some 255) = some (.push 255#8) ∧ 255 < 256 ∧ assembleCommand "PUSH" (some 256) = none) ∧
    (assembleCommand "SKIP" (some 16383) = some (.skip 16383#14) ∧ 16383 < 16384 ∧ assembleCommand "SKIP" (some 16384) = none) ∧
    (assembleCommand "CRCCHK" (some 0xFFFFFF) = some (.crcchk 0xFFFFFF#24) ∧ 0xFFFFFF < 0x1000000 ∧
      assembleCommand "CRCCHK" (some 0x1000000) = none) := by decide +kernel

/-- PseudoInstructionsExpand: a decimal scale, one with a sign, and zero. -/
theorem witness_PseudoInstructionsExpand :
    scalePattern (.decimal false 5 1) = some 0x3FE0000000000000#64 ∧ scalePattern (.decimal true 10 1) = some 0xBFF0000000000000#64 ∧
    scalePattern (.decimal false 0 1) = some 0#64 ∧ scalePattern (.decimal false 1 1) = none := by decide +kernel

/-- GetuReadsUnsignedField, GetsSignExtendsField, GetsmReadsSignMagnitude: the least and greatest width; a field that ends on the last bit, one that
passes it, and one refused for BRERR. -/
theorem witness_integer_reads :
    (0#7).toNat ≤ 64 ∧ (64#7).toNat ≤ 64 ∧ Fits stateF8 64 ∧ Fits stateX 48 ∧ ¬ Fits stateX 49 ∧ Fits State.reset 0 ∧ ¬ Fits State.reset 1 ∧
    ¬ Fits { stateX with brerr := true } 0 := by decide

/-- GetfMultipliesByScale: each of its cases: a finite SCALE; an infinite one with a field that is not 0 and with one that is; a NaN. -/
theorem witness_GetfMultipliesByScale :
    (Fits stateF8 64 ∧ f64IsFinite stateF8.scale = true) ∧
    (Fits stateF8 8 ∧ f64IsInfinite 0x7FF0000000000000#64 = true ∧ f64IsInfinite 0xFFF0000000000000#64 = true ∧ fieldSum stateF8 0 8 ≠ 0) ∧
    (Fits stateF80 9 ∧ fieldSum stateF80 1 8 = 0) ∧ f64IsNan 0x7FF0000000000001#64 = true ∧ ¬ Fits stateX 49 := by decide +kernel

/-- GetfsMultipliesByScale: the same cases, with a negative field. -/
theorem witness_GetfsMultipliesByScale :
    (Fits stateF80 64 ∧ f64IsFinite stateF80.scale = true ∧ twosComplement 64 (fieldSum stateF80 0 64) = -(2 ^ 63)) ∧
    (f64IsInfinite 0xFFF0000000000000#64 = true ∧ twosComplement 8 (fieldSum stateF8 0 8) ≠ 0) ∧
    (twosComplement 8 (fieldSum stateF80 1 8) = 0) ∧ f64IsNan 0xFFFFFFFFFFFFFFFF#64 = true ∧ ¬ Fits stateX 49 := by decide +kernel

/-- SkipMovesOnlyTheCursor: to the last bit, past it, and by the greatest count. -/
theorem witness_SkipMovesOnlyTheCursor : Fits stateX (48#14).toNat ∧ ¬ Fits stateX (49#14).toNat ∧ ¬ Fits stateX (16383#14).toNat := by decide

/-- BitReaderIsPure. -/
theorem witness_BitReaderIsPure :
    Reads (.getu 12#7) 12 ∧ exec (.getu 12#7) stateX = .next { stateX with res := 0x3ED#64, brpos := 12#13 } ∧
    exec .rewind stateX = .next stateX ∧ exec (.skip 0#14) stateX = .next stateX := ⟨rfl, rfl, rfl, rfl⟩

/-- ReadsConcatenate: inside the payload, and at the end of it with widths that sum to 64. -/
theorem witness_ReadsConcatenate :
    ((4#7).toNat + (8#7).toNat ≤ 64 ∧ stateX.brerr = false ∧ stateX.brpos.toNat + (4#7).toNat + (8#7).toNat ≤ 8 * stateX.flen.toNat) ∧
    ((64#7).toNat + (0#7).toNat ≤ 64 ∧ stateF8.brerr = false ∧ stateF8.brpos.toNat + (64#7).toNat + (0#7).toNat ≤ 8 * stateF8.flen.toNat) := by decide

/-- FailedReadChangesOnlyBrerr: a failing read, a read that does not fail, and a read after a failed one. -/
theorem witness_FailedReadChangesOnlyBrerr :
    Reads (.getu 49#7) 49 ∧ exec (.getu 49#7) stateX = .next { stateX with brerr := true } ∧
    Reads (.gets 48#7) 48 ∧ (after (.gets 48#7) stateX).map (·.brerr) = some false ∧
    Reads (.skip 0#14) 0 ∧ exec (.skip 0#14) { stateX with brerr := true } = .next { stateX with brerr := true } := by
  refine ⟨rfl, rfl, rfl, by decide +kernel, rfl, rfl⟩

/-- SmallIntegersConvertExactly. -/
theorem witness_SmallIntegersConvertExactly :
    (2 ^ 53 : Int).natAbs ≤ 2 ^ 53 ∧ (-(2 ^ 53) : Int).natAbs ≤ 2 ^ 53 ∧ (-(2 ^ 63) : Int) = -(2 ^ 63) := by decide

/-- CheckerCommandsWriteTheirRegister: CRCCHK of an equal and of an unequal value. -/
theorem witness_CheckerCommandsWriteTheirRegister : State.reset.crc = 0#24 ∧ State.reset.crc ≠ 0xFFFFFF#24 := by decide

/-- CheckerAndFramerShareNoState. -/
theorem witness_CheckerAndFramerShareNoState :
    exec (.crcbyte 0xD3#8) State.reset = .next { State.reset with crc := 0xE33309#24 } ∧ (after .next (holding frameX)).isSome = true := by
  refine ⟨rfl, by decide +kernel⟩

/-- PushAppendsOrOverflows: a full buffer, and one byte less. -/
theorem witness_PushAppendsOrOverflows :
    (holding (List.replicate 2048 0xFF#8)).buf.length = 2048 ∧ (holding (List.replicate 2047 0xFF#8)).buf.length ≠ 2048 := by decide +kernel

/-- NextEmptyExit: the empty buffer, junk, and the candidates of V-F8, V-F9 and V-F7 that are rejected. -/
theorem witness_NextEmptyExit :
    ∀ buf ∈ [[], [0xFF#8, 0xFF#8], [0xD3#8, 0xFC#8, 0x00#8], [0xD3#8, 0x00#8, 0x00#8, 0x47#8, 0xEA#8, 0x4B#8], frameX.take 11 ++ [0x02#8]],
      ∀ p < (holding buf).buf.length, RejectedAt (holding buf).buf p := by decide +kernel

/-- NextNeedExitOnShortHeader: k = 2 at p = 0 and behind junk, and k = 1. -/
theorem witness_NextNeedExitOnShortHeader :
    (ScanReaches [0xD3#8] 0 ∧ ShortHeaderAt [0xD3#8] 0) ∧ (ScanReaches [0xFF#8, 0xD3#8] 1 ∧ ShortHeaderAt [0xFF#8, 0xD3#8] 1) ∧
    (ScanReaches [0xD3#8, 0xD3#8] 0 ∧ ShortHeaderAt [0xD3#8, 0xD3#8] 0) := ⟨by decide, by decide, by decide⟩

/-- NextNeedExitOnShortFrame: the greatest and the least k. -/
theorem witness_NextNeedExitOnShortFrame :
    (ScanReaches [0xD3#8, 0x03#8, 0xFF#8] 0 ∧ ShortFrameAt [0xD3#8, 0x03#8, 0xFF#8] 0) ∧
    (ScanReaches (frameX.take 11) 0 ∧ ShortFrameAt (frameX.take 11) 0) := by decide

/-- NextYieldsAcceptedFrame: the shortest frame, a frame behind junk, and the longest. -/
theorem witness_NextYieldsAcceptedFrame :
    (ScanReaches frameY 0 ∧ AcceptedAt frameY 0) ∧ (ScanReaches ([0xFF#8, 0xFF#8] ++ frameX) 2 ∧ AcceptedAt ([0xFF#8, 0xFF#8] ++ frameX) 2) ∧
    (ScanReaches longFrame 0 ∧ AcceptedAt longFrame 0) := by
  refine ⟨by decide +kernel, by decide +kernel, by decide +kernel, by decide +kernel, by decide +kernel, by decide +kernel, ?_⟩
  have hl : (longFrame.drop 0).take (lengthAt longFrame 0 + 3) = longFrame.take 6 ++ List.replicate 1020 0x00#8 := by decide +kernel
  have ht : trailerAt longFrame 0 = 0#24 := by decide +kernel
  have h6 : (longFrame.take 6).foldl crcUpd 0#24 = 0#24 := by decide +kernel
  have hz : ∀ k, (List.replicate k 0x00#8).foldl crcUpd 0#24 = 0#24 := by
    intro k
    induction k with
    | zero => rfl
    | succ k ih => rw [List.replicate_succ, List.foldl_cons, show crcUpd 0#24 0x00#8 = 0#24 by decide]; exact ih
  show crc24q ((longFrame.drop 0).take (lengthAt longFrame 0 + 3)) = trailerAt longFrame 0
  rw [hl, ht, crc24q, List.foldl_append, h6, hz]

/-- NextFreesAFullBuffer: a full buffer that empties, one that keeps one byte, and one that yields. -/
theorem witness_NextFreesAFullBuffer :
    ∀ buf ∈ [List.replicate 2048 0xFF#8, List.replicate 2047 0xFF#8 ++ [0xD3#8], frameX ++ List.replicate 2036 0xFF#8],
      (holding buf).buf.length = 2048 := by decide +kernel

/-- The 20 bytes of V-F12, a NEXT after every PUSH. -/
def everyByte : List Move := (frameX ++ frameY).flatMap (fun b => [.push b, .next]) ++ [.next]

/-- The 20 bytes of V-F12, then NEXT until LAST is not FRAME. -/
def oneShot : List Move := (frameX ++ frameY).map .push ++ [.next, .next, .next]

/-- ChunkingIndependence: two interleavings of V-F12, and the frames they yield. -/
theorem witness_ChunkingIndependence :
    neverPushesFull everyByte State.reset = true ∧ neverPushesFull oneShot State.reset = true ∧ pushedBytes everyByte = pushedBytes oneShot ∧
    drains everyByte State.reset ∧ drains oneShot State.reset ∧ (runMoves oneShot State.reset).1.length = 2 := by
  unfold drains; decide +kernel

/-- ResyncAfterRejectedBytes: V-F6 and V-F7. -/
theorem witness_ResyncAfterRejectedBytes :
    (∀ p < ([0xFF#8, 0xFF#8] : List Byte).length, RejectedAt ([0xFF#8, 0xFF#8] ++ (holding frameX).buf) p) ∧
    (∀ p < (frameX.take 11 ++ [0x02#8]).length, RejectedAt (frameX.take 11 ++ [0x02#8] ++ (holding frameX).buf) p) := by decide +kernel

/-- FalseSyncByteStallsTheFramer: V-F11a. -/
theorem witness_FalseSyncByteStallsTheFramer :
    ShortFrameAt (holding [0xD3#8, 0x03#8, 0xFF#8]).buf 0 ∧
    (holding [0xD3#8, 0x03#8, 0xFF#8]).buf.length + (pushedBytes everyByte).length < lengthAt (holding [0xD3#8, 0x03#8, 0xFF#8]).buf 0 + 6 := by
  decide +kernel

/-- NextKeepsTheFrameUnlessItYields: a NEXT that does not yield, and one that does. -/
theorem witness_NextKeepsTheFrameUnlessItYields :
    (after .next { stateX with brpos := 12#13 }).map (fun t => (t.last, t.brpos)) = some (.empty, 12#13) ∧
    (after .next { stateX with buf := frameY, brpos := 12#13 }).map (fun t => (t.last, t.brpos)) = some (.frame, 0#13) := by decide +kernel

/-- NopChangesNothing: the last clause. -/
theorem witness_NopChangesNothing : (0x800000#24 : BitVec 24) ≠ 0#24 := by decide

/-- OnlyNamedCommandsClearFlags: all three flags set; each clearing command. -/
theorem witness_OnlyNamedCommandsClearFlags :
    let s : State := { State.reset with ill := true, ovf := true, brerr := true, buf := frameX }
    (after .clrerr s).map (fun t => (t.ill, t.ovf, t.brerr)) = some (false, false, true) ∧
    (after .rewind s).map (fun t => (t.ill, t.ovf, t.brerr)) = some (true, true, false) ∧
    (after .next s).map (fun t => (t.ill, t.ovf, t.brerr)) = some (true, true, false) ∧
    (after .srst s).map (fun t => (t.ill, t.ovf, t.brerr)) = some (false, false, false) := by decide +kernel

/-- OnlyNamedConditionsSetFlags: no flag set; a PUSH on a full buffer and a read that overruns. -/
theorem witness_OnlyNamedConditionsSetFlags :
    (after (.push 0#8) (holding (List.replicate 2048 0xFF#8))).map (fun t => (t.ill, t.ovf, t.brerr)) = some (false, true, false) ∧
    Reads (.getu 1#7) 1 ∧ (after (.getu 1#7) State.reset).map (fun t => (t.ill, t.ovf, t.brerr)) = some (false, false, true) := by
  refine ⟨by decide +kernel, rfl, by decide⟩

/-- CursorMovesOnlyByReadsAndRestarts and EachRegisterHasItsWriters: commands that change BRPOS, ILL, OVF, FVALID and RES. -/
theorem witness_register_writers :
    (after (.skip 48#14) stateX).map (·.brpos) = some 48#13 ∧ (after (.getu 49#7) stateX).map (·.brerr) = some true ∧
    (after .clrerr { stateX with ill := true, ovf := true }).map (fun t => (t.ill, t.ovf)) = some (false, false) ∧
    (after .srst { stateX with res := 1#64 }).map (fun t => (t.fvalid, t.res)) = some (false, 0#64) := by decide

/-- StepKeepsTheInvariant: states that meet it, with no frame, with a frame read to its end, and at NEED = 1026; each takes a step. -/
theorem witness_StepKeepsTheInvariant :
    (∀ s ∈ [State.reset, { stateX with brpos := 48#13 }, { holding [0xD3#8, 0x03#8, 0xFF#8] with last := .need, need := 1026#11 }],
      s.Inv ∧ (stepped (withAccesses s [access 0 (.write 0x11000000#32)])).isSome = true) ∧
    ∀ l : List Access, State.Inv (withAccesses stateX l) ↔ stateX.Inv := by
  refine ⟨?_, fun l => Iff.rfl⟩
  simp only [State.Inv]; decide +kernel

end Sys2Proof.Tests
end

/-! SUPPORT. The statements of 00_scope.md: the host's run (R4, R60, R64), and the rounding to binary64 (R16, GK-2). -/

namespace Sys2Proof.Proofs

open Sys2Proof Sys2Proof.Machine

/-! ### The record of the host's run (20_memory.md R60, R64) -/

theorem sameRun_refl (s : State) : SameRun s s := ⟨rfl, rfl, rfl, rfl⟩

/-- R101: a command that begins with a read of the bit reader does not write that record. -/
theorem exec_reads_sameRun {i : Instr} {n : Nat} {s t : State} (h : exec i s = .next t) (hr : Reads i n) : SameRun s t := by
  rcases exec_reads hr h with ⟨_, rfl⟩ | ⟨_, _, _, rfl, _⟩ <;> exact sameRun_refl s

/-- R60: no command writes the record of the host's run or the block's number. -/
theorem exec_sameRun {i : Instr} {s t : State} (h : exec i s = .next t) : SameRun s t := by
  cases i with
  | getu n | gets n | getsm n | getf n | getfs n | skip n => exact exec_reads_sameRun (n := n.toNat) h rfl
  | push _ => rcases exec_push h with ⟨_, rfl⟩ | ⟨_, rfl⟩ <;> exact sameRun_refl s
  | next =>
    rcases exec_next h with ⟨_, rfl⟩ | ⟨_, _, _, _, _, rfl⟩ | ⟨_, _, _, _, _, _, rfl⟩ <;> exact sameRun_refl s
  | nop | srst | clrerr | rewind | crcinit | crcbyte _ | crcchk _ => cases h; exact sameRun_refl s

/-- R59: no write, of whichever register, writes that record. -/
theorem perform_write_sameRun {r : Reg} {v : Word} {s t : State} (h : perform r (.write v) s = .next t) : SameRun s t := by
  rcases perform_write_cases h with ⟨_, ⟨i, _, he⟩ | ⟨_, rfl⟩⟩ | ⟨_, rfl⟩ | ⟨_, rfl⟩ | ⟨_, _, _, rfl⟩
  · exact exec_sameRun he
  all_goals exact ⟨rfl, rfl, rfl, rfl⟩

/-- R58, R59: an access leaves the client and the accesses to come as they are, and returns a value exactly where it is a read. -/
theorem perform_record {r : Reg} {k : AccessKind} {s t : State} (h : perform r k s = .next t) :
    t.client = s.client ∧ t.pending = s.pending ∧ t.readback.length = s.readback.length + if k = .read then 1 else 0 := by
  cases k with
  | read => cases h; simp
  | write v =>
    obtain ⟨hc, hp, hr, _⟩ := perform_write_sameRun h
    exact ⟨hc, hp, by simp [hr]⟩

/-- R60, R64: a step whose next access is a defined one of the block's client serves that access. -/
theorem step_serves_defined {s : State} {a : Access} {rest : List Access} (hp : s.pending = a :: rest) (hs : s.serves a.agent)
    (ha : a.Defined) :
    ∃ t, step s = .next t ∧ t.client = some a.agent ∧ t.pending = rest ∧
      t.readback.length = s.readback.length + if a.kind = .read then 1 else 0 := by
  obtain ⟨hw, r, ho⟩ := ha
  obtain ⟨t, ht⟩ := perform_total r a.kind (s.taken a.agent rest)
  have hstep : step s = serve a rest s := by simp only [step, hp]
  exact ⟨t, by rw [hstep, serve_defined hs hw ho, ht], perform_record ht⟩

/-- A run that begins with a step that completes goes on from the state that step leaves. -/
theorem run_succ {s t : State} (h : step s = .next t) (k : Nat) : Host.Core.run core (k + 1) s = Host.Core.run core k t := by
  have hcore : core.step s = .next t := h
  simp only [Host.Core.run, hcore]

/-- Settles O15, by induction on the accesses still to come: each step serves one of them and leaves its agent the client. -/
theorem definedAccessesAllComplete : Obligations.DefinedAccessesAllComplete := by
  intro s agent hs hdef
  generalize hp : s.pending = accesses at hdef ⊢
  induction accesses generalizing s with
  | nil => exact ⟨s, rfl, hp, rfl⟩
  | cons a rest ih =>
    obtain ⟨⟨rfl, ha⟩, hrest⟩ := List.forall_mem_cons.1 hdef
    obtain ⟨t, hstep, hclient, htp, hread⟩ := step_serves_defined hp hs ha
    obtain ⟨u, hrun, hup, huread⟩ := ih t (.inr hclient) htp hrest
    refine ⟨u, ?_, hup, ?_⟩
    · rw [List.length_cons, run_succ hstep, hrun]
    · rw [huread, hread, List.filter_cons]
      by_cases hk : a.kind = .read
      · simp [hk]; omega
      · simp [hk]

/-- Settles O16: a step with no access pending is the idle step (R183). -/
theorem idleBlockKeepsItsState : Obligations.IdleBlockKeepsItsState := by
  intro s hp
  simp only [step, hp]

/-! ### Rounding to the nearest integer, ties to even (00_scope.md R16) -/

/-- R16: r is an integer nearest z, and even where another integer is as near. -/
structure NearestEven (z : ℚ) (r : ℕ) : Prop where
  half : |z - r| ≤ 1 / 2
  even : |z - r| = 1 / 2 → r % 2 = 0

/-- Every integer but r is at least a half away from z. -/
theorem NearestEven.half_le {z : ℚ} {r : ℕ} (h : NearestEven z r) {j : ℤ} (hj : j ≠ r) : 1 / 2 ≤ |z - j| := by
  have hone : (1 : ℚ) ≤ |(r : ℚ) - j| := by exact_mod_cast Int.one_le_abs (sub_ne_zero.2 hj.symm)
  have htri : |(r : ℚ) - j| ≤ |(r : ℚ) - z| + |z - j| := abs_sub_le _ _ _
  rw [abs_sub_comm (r : ℚ) z] at htri
  linarith [h.half]

theorem NearestEven.le_int {z : ℚ} {r : ℕ} (h : NearestEven z r) (j : ℤ) : |z - r| ≤ |z - j| := by
  by_cases hj : j = r
  · simp [hj]
  · exact h.half.trans (h.half_le hj)

theorem NearestEven.even_of_eq {z : ℚ} {r : ℕ} (h : NearestEven z r) {j : ℤ} (hj : j ≠ r) (htie : |z - r| = |z - j|) :
    r % 2 = 0 :=
  h.even (le_antisymm h.half (htie ▸ h.half_le hj))

/-- An integer rounds to itself only. -/
theorem NearestEven.eq_of_natCast {n r : ℕ} (h : NearestEven n r) : n = r := by
  by_contra hne
  have := h.half_le (j := n) (by exact_mod_cast hne)
  norm_num at this

theorem NearestEven.natCast_le {z : ℚ} {r : ℕ} (h : NearestEven z r) {n : ℕ} (hn : (n : ℚ) ≤ z) : n ≤ r := by
  by_contra hlt
  have : (r : ℚ) + 1 ≤ n := by exact_mod_cast (show r + 1 ≤ n by omega)
  linarith [(abs_le.1 h.half).2]

theorem NearestEven.le_natCast {z : ℚ} {r : ℕ} (h : NearestEven z r) {n : ℕ} (hn : z ≤ n) : r ≤ n := by
  by_contra hlt
  have : (n : ℚ) + 1 ≤ r := by exact_mod_cast (show n + 1 ≤ r by omega)
  linarith [(abs_le.1 h.half).1]

/-- R16: the rounding stays below 2^53 exactly below the midpoint of 2^53 - 1 and 2^53, where the tie goes to the even 2^53. -/
theorem NearestEven.lt_carry_iff {z : ℚ} {r : ℕ} (h : NearestEven z r) : r < 2 ^ 53 ↔ z < 2 ^ 53 - 1 / 2 := by
  obtain ⟨hlo, hhi⟩ := abs_le.1 h.half
  constructor
  · intro hlt
    have hle : (r : ℚ) + 1 ≤ 2 ^ 53 := by exact_mod_cast hlt
    refine lt_of_le_of_ne (by linarith) fun heq => ?_
    have hlast : (r : ℚ) + 1 = 2 ^ 53 := le_antisymm hle (by linarith)
    have heven := h.even (by rw [heq, ← hlast, show (r : ℚ) + 1 - 1 / 2 - r = 1 / 2 by ring]; norm_num)
    have : r + 1 = 2 ^ 53 := by exact_mod_cast hlast
    omega
  · intro hlt
    have : (r : ℚ) < 2 ^ 53 := by linarith
    exact_mod_cast this

theorem nearestEven_natCast (n : ℕ) : NearestEven n n := ⟨by simp, by norm_num⟩

/-- R16: `roundHalfEven` rounds the quotient `m / 2^k` to the nearest integer, ties to even. -/
theorem roundHalfEven_nearestEven (m k : ℕ) : NearestEven (m / 2 ^ k) (roundHalfEven m k) := by
  rw [show (2 : ℚ) ^ k = (2 ^ k : ℕ) by push_cast; rfl]
  simp only [roundHalfEven]
  have hd : 0 < 2 ^ k := by positivity
  generalize 2 ^ k = d at hd ⊢
  have hd' : (0 : ℚ) < d := by exact_mod_cast hd
  obtain ⟨ρ, hρ⟩ : ∃ ρ : ℚ, ρ = (m % d : ℕ) / d := ⟨_, rfl⟩
  have hz : (m : ℚ) / d = (m / d : ℕ) + ρ := by
    rw [hρ]; field_simp; exact_mod_cast (Nat.div_add_mod m d).symm
  have hρ0 : 0 ≤ ρ := by rw [hρ]; positivity
  have hρ1 : ρ < 1 := by rw [hρ, div_lt_one hd']; exact_mod_cast Nat.mod_lt m hd
  have hge : 1 / 2 ≤ ρ ↔ d ≤ 2 * (m % d) := by
    rw [hρ, div_le_div_iff₀ two_pos hd', one_mul, mul_comm]; norm_cast
  have hle : ρ ≤ 1 / 2 ↔ 2 * (m % d) ≤ d := by
    rw [hρ, div_le_div_iff₀ hd' two_pos, one_mul, mul_comm]; norm_cast
  rw [hz]
  split
  case isTrue hup =>
    have hhalf := hge.2 (by omega)
    have habs : |(m / d : ℕ) + ρ - (m / d + 1 : ℕ)| = 1 - ρ := by
      rw [abs_of_nonpos] <;> push_cast <;> linarith
    refine ⟨by linarith, fun htie => ?_⟩
    have := hle.1 (by linarith)
    omega
  case isFalse hdown =>
    have hhalf := hle.2 (by omega)
    have habs : |(m / d : ℕ) + ρ - (m / d : ℕ)| = ρ := by rw [add_sub_cancel_left, abs_of_nonneg hρ0]
    refine ⟨by linarith, fun htie => ?_⟩
    have := hge.1 (by linarith)
    omega

/-! ### The bits of a binary64 pattern (GK-2) -/

theorem f64Pattern_getLsbD (neg : Bool) (n i : ℕ) :
    (f64Pattern neg n).getLsbD i = if i < 63 then n.testBit i else (decide (i = 63) && neg) := by
  rw [f64Pattern, BitVec.getLsbD_append, BitVec.getLsbD_ofNat, BitVec.getLsbD_ofBool]
  split
  · simp_all
  · congr 2; simp; omega

@[simp] theorem f64Sign_pattern (neg : Bool) (n : ℕ) : f64Sign (f64Pattern neg n) = neg := by
  simp [f64Sign, -BitVec.getLsbD_eq_getElem, f64Pattern_getLsbD]

theorem f64Fraction_pattern (neg : Bool) (n : ℕ) : f64Fraction (f64Pattern neg n) = BitVec.ofNat 52 n := by
  apply BitVec.eq_of_getLsbD_eq
  intro i hi
  rw [f64Fraction, BitVec.getLsbD_extractLsb', f64Pattern_getLsbD, BitVec.getLsbD_ofNat, if_pos (by omega), Nat.zero_add]

theorem f64Exponent_pattern (neg : Bool) (n : ℕ) : f64Exponent (f64Pattern neg n) = BitVec.ofNat 11 (n / 2 ^ 52) := by
  apply BitVec.eq_of_getLsbD_eq
  intro i hi
  rw [f64Exponent, BitVec.getLsbD_extractLsb', f64Pattern_getLsbD, BitVec.getLsbD_ofNat, if_pos (by omega), Nat.testBit_div_two_pow,
    Nat.add_comm]

/-- Every pattern is its sign and its 63 low bits. -/
theorem f64Pattern_sign_low (b : Word64) : f64Pattern (f64Sign b) (b.toNat % 2 ^ 63) = b := by
  apply BitVec.eq_of_getLsbD_eq
  intro i hi
  rw [f64Pattern_getLsbD, f64Sign, Nat.testBit_mod_two_pow]
  split
  · simp_all [BitVec.testBit_toNat]
  · have : i = 63 := by omega
    simp [this]

/-! ### The finite numbers of binary64 (GK-2) -/

/-- The factor `(-1)^neg` of a sign. -/
def signFactor (neg : Bool) : ℚ := if neg then -1 else 1

theorem signFactor_mul (a b : Bool) : signFactor a * signFactor b = signFactor (a ^^ b) := by
  cases a <;> cases b <;> norm_num [signFactor]

theorem signFactor_mul_self (neg : Bool) : signFactor neg * signFactor neg = 1 := by
  rw [signFactor_mul, Bool.xor_self]; rfl

theorem abs_signFactor_mul (neg : Bool) (x : ℚ) : |signFactor neg * x| = |x| := by
  cases neg <;> simp [signFactor]

/-- The number z in units of the last place `2^(k - 1074)`, the k-th from the least one of binary64 up. -/
def inUnits (k : ℕ) (z : ℚ) : ℚ := z * 2 ^ ((k : ℤ) - 1074)

theorem inUnits_sub (k : ℕ) (y z : ℚ) : inUnits k (y - z) = inUnits k y - inUnits k z := sub_mul ..

theorem inUnits_pos (k : ℕ) : (0 : ℚ) < 2 ^ ((k : ℤ) - 1074) := by positivity

theorem inUnits_lt {k : ℕ} {y z : ℚ} : inUnits k y < inUnits k z ↔ y < z := mul_lt_mul_iff_left₀ (inUnits_pos k)

theorem inUnits_le {k : ℕ} {y z : ℚ} : inUnits k y ≤ inUnits k z ↔ y ≤ z := mul_le_mul_iff_left₀ (inUnits_pos k)

theorem abs_inUnits (k : ℕ) (z : ℚ) : |inUnits k z| = inUnits k |z| := by
  rw [inUnits, inUnits, abs_mul, abs_of_pos (inUnits_pos k)]

theorem inUnits_add (k j : ℕ) (z : ℚ) : inUnits (k + j) z = inUnits k (z * 2 ^ j) := by
  rw [inUnits, inUnits, mul_assoc, ← zpow_natCast, ← zpow_add₀ two_ne_zero]
  push_cast; ring_nf

theorem inUnits_mono {k k' : ℕ} {z : ℚ} (hz : 0 ≤ z) (h : k ≤ k') : inUnits k z ≤ inUnits k' z := by
  obtain ⟨j, rfl⟩ := Nat.exists_eq_add_of_le h
  rw [inUnits_add]
  exact inUnits_le.2 (le_mul_of_one_le_right hz (one_le_pow₀ one_le_two))

/-- GK-2: z lies among the significands of a last place: below 2^53, and, save at the least last place, from 2^52 on. -/
structure IsSignificand (k : ℕ) (z : ℚ) : Prop where
  nonneg : 0 ≤ z
  lt : z < 2 ^ 53
  le : k ≠ 0 → 2 ^ 52 ≤ z

theorem isSignificand_natCast {k r : ℕ} : IsSignificand k r ↔ r < 2 ^ 53 ∧ (k ≠ 0 → 2 ^ 52 ≤ r) :=
  ⟨fun h => ⟨by exact_mod_cast h.lt, fun hk => by exact_mod_cast h.le hk⟩,
    fun h => ⟨by positivity, by exact_mod_cast h.1, fun hk => by exact_mod_cast h.2 hk⟩⟩

/-- GK-2: the exponent field of a pattern whose low bits are n is `n / 2^52`. -/
theorem f64Exponent_eq_iff (neg : Bool) {n e : ℕ} (hn : n < 2 ^ 63) (he : e < 2 ^ 11) :
    f64Exponent (f64Pattern neg n) = BitVec.ofNat 11 e ↔ n / 2 ^ 52 = e := by
  rw [f64Exponent_pattern, ← BitVec.toNat_inj, BitVec.toNat_ofNat, BitVec.toNat_ofNat, Nat.mod_eq_of_lt he,
    Nat.mod_eq_of_lt (by omega)]

/-- GK-2: the finite patterns are those whose low bits are below an infinity's. -/
theorem f64IsFinite_pattern (neg : Bool) {n : ℕ} (hn : n < 2 ^ 63) :
    f64IsFinite (f64Pattern neg n) = true ↔ n < f64InfinityBits := by
  rw [f64IsFinite, bne_iff_ne, ne_eq, f64Exponent_eq_iff neg hn (by norm_num), f64InfinityBits]
  omega

theorem f64IsFinite_of_lt (neg : Bool) {n : ℕ} (hn : n < f64InfinityBits) : f64IsFinite (f64Pattern neg n) = true :=
  (f64IsFinite_pattern neg (hn.trans (by rw [f64InfinityBits]; norm_num))).2 hn

theorem f64IsInfinite_pattern (neg : Bool) : f64IsInfinite (f64Pattern neg f64InfinityBits) = true := by
  cases neg <;> decide

/-- GK-2: a significand r at last place k has the low bits `k * 2^52 + r`. -/
theorem f64Unpack_pattern (neg : Bool) {k r : ℕ} (h : IsSignificand k r) (hk : k ≤ 2045) :
    f64Unpack (f64Pattern neg (k * 2 ^ 52 + r)) = .finite neg r (k - 1074) := by
  obtain ⟨hlt, hle⟩ := isSignificand_natCast.1 h
  have hn : k * 2 ^ 52 + r < 2 ^ 63 := by omega
  have hfin : ¬ f64Exponent (f64Pattern neg (k * 2 ^ 52 + r)) = 0x7FF#11 := by
    rw [f64Exponent_eq_iff neg hn (by norm_num)]; omega
  have hzero : f64Exponent (f64Pattern neg (k * 2 ^ 52 + r)) = 0#11 ↔ r < 2 ^ 52 := by
    rw [f64Exponent_eq_iff neg hn (by norm_num)]; omega
  rw [f64Unpack, if_neg hfin, f64Sign_pattern, f64Fraction_pattern]
  split
  case isTrue hsub =>
    have hr := hzero.1 hsub
    have hk0 : k = 0 := by_contra fun hk0 => absurd (hle hk0) (by omega)
    rw [hk0, Nat.zero_mul, Nat.zero_add, BitVec.toNat_ofNat, Nat.mod_eq_of_lt hr]
    norm_num
  case isFalse hnormal =>
    have hr := mt hzero.2 hnormal
    rw [f64Exponent_pattern, BitVec.toNat_ofNat, BitVec.toNat_ofNat, show (k * 2 ^ 52 + r) / 2 ^ 52 % 2 ^ 11 = k + 1 by omega,
      show 2 ^ 52 + (k * 2 ^ 52 + r) % 2 ^ 52 = r by omega]
    congr 1
    push_cast; ring

theorem f64Value_pattern (neg : Bool) {k r : ℕ} (h : IsSignificand k r) (hk : k ≤ 2045) :
    f64Value (f64Pattern neg (k * 2 ^ 52 + r)) = signFactor neg * inUnits k r := by
  simp only [f64Value, f64Unpack_pattern neg h hk, inUnits, signFactor, mul_assoc]

/-- GK-2: every finite pattern stands for a significand at some last place. -/
theorem exists_f64Value_eq {b : Word64} (h : f64IsFinite b = true) :
    ∃ k r : ℕ, IsSignificand k r ∧ f64Value b = signFactor (f64Sign b) * inUnits k r := by
  have hlow : b.toNat % 2 ^ 63 < 2 ^ 63 := Nat.mod_lt _ (by norm_num)
  have hb := f64Pattern_sign_low b
  generalize b.toNat % 2 ^ 63 = n at hlow hb
  rw [← hb, f64IsFinite_pattern _ hlow, f64InfinityBits] at h
  have hr : IsSignificand (n / 2 ^ 52 - 1) (n - (n / 2 ^ 52 - 1) * 2 ^ 52 : ℕ) := isSignificand_natCast.2 (by omega)
  refine ⟨_, _, hr, ?_⟩
  rw [← f64Value_pattern _ hr (by omega), Nat.add_sub_cancel' (by omega), hb]

/-! ### Rounding to a significand (R16) -/

section
variable {k r : ℕ} {z : ℚ}

theorem IsSignificand.nearest_le (hz : IsSignificand k z) (hr : NearestEven z r) : r ≤ 2 ^ 53 :=
  hr.le_natCast (by exact_mod_cast hz.lt.le)

theorem IsSignificand.le_nearest (hz : IsSignificand k z) (hr : NearestEven z r) (hk : k ≠ 0) : 2 ^ 52 ≤ r :=
  hr.natCast_le (by exact_mod_cast hz.le hk)

/-- A carry out of rounding moves to the next last place with the same low bits, so the pattern is that of r all the same. -/
theorem f64Value_nearest (neg : Bool) (hz : IsSignificand k z) (hr : NearestEven z r) (hlt : k * 2 ^ 52 + r < f64InfinityBits) :
    f64Value (f64Pattern neg (k * 2 ^ 52 + r)) = signFactor neg * inUnits k r := by
  rw [f64InfinityBits] at hlt
  have hle := hz.nearest_le hr
  have hge := hz.le_nearest hr
  by_cases hcarry : r = 2 ^ 53
  · have hsig : IsSignificand (k + 1) (2 ^ 52 : ℕ) := isSignificand_natCast.2 (by norm_num)
    rw [hcarry, show k * 2 ^ 52 + 2 ^ 53 = (k + 1) * 2 ^ 52 + 2 ^ 52 by ring, f64Value_pattern neg hsig (by omega), inUnits_add]
    norm_num
  · exact f64Value_pattern neg (isSignificand_natCast.2 ⟨by omega, hge⟩) (by omega)

/-- The overflow threshold lies half a last place above the greatest finite number: from there on, and only there, the low bits reach
an infinity's. -/
theorem nearest_lt_infinity_iff (hz : IsSignificand k z) (hr : NearestEven z r) :
    k * 2 ^ 52 + r < f64InfinityBits ↔ inUnits k z < (2 ^ 54 - 1) * 2 ^ 970 := by
  have hthreshold : ((2 : ℚ) ^ 54 - 1) * 2 ^ 970 = inUnits 2045 (2 ^ 53 - 1 / 2) := by
    rw [inUnits, show ((2045 : ℕ) : ℤ) - 1074 = ((970 + 1 : ℕ) : ℤ) by norm_num, zpow_natCast, pow_succ _ 970]
    generalize (2 : ℚ) ^ 970 = u
    ring
  rw [hthreshold, f64InfinityBits]
  rcases lt_trichotomy k 2045 with hk | rfl | hk
  · have hle := hz.nearest_le hr
    refine iff_of_true (by omega) ?_
    calc inUnits k z < inUnits k (2 ^ 53) := inUnits_lt.2 hz.lt
      _ ≤ inUnits 2044 (2 ^ 53) := inUnits_mono (by norm_num) (by omega)
      _ < inUnits (2044 + 1) (2 ^ 53 - 1 / 2) := by rw [inUnits_add, inUnits_lt]; norm_num
  · rw [inUnits_lt, ← hr.lt_carry_iff]
    omega
  · have hge := hz.le_nearest hr (by omega)
    refine iff_of_false (by omega) (not_lt.2 ?_)
    calc inUnits 2045 (2 ^ 53 - 1 / 2) ≤ inUnits (2045 + 1) (2 ^ 52) := by rw [inUnits_add]; exact inUnits_le.2 (by norm_num)
      _ ≤ inUnits k (2 ^ 52) := inUnits_mono (by norm_num) hk
      _ ≤ inUnits k z := inUnits_le.2 (hz.le (by omega))

/-- Seen from last place k, every finite number is a whole number of units, or is below all significands of k. -/
theorem signed_significand_cases {k' s : ℕ} (k : ℕ) (neg : Bool) (hs : IsSignificand k' s) :
    (∃ j : ℤ, signFactor neg * inUnits k' s = inUnits k j) ∨
      (k ≠ 0 ∧ signFactor neg * inUnits k' s < inUnits k (2 ^ 52)) := by
  have hsign : signFactor neg * inUnits k' s = inUnits k' (signFactor neg * s) := (mul_assoc ..).symm
  rw [hsign]
  rcases le_or_gt k k' with hk | hk
  · obtain ⟨d, rfl⟩ := Nat.exists_eq_add_of_le hk
    refine .inl ⟨(if neg then -1 else 1) * s * 2 ^ d, ?_⟩
    rw [inUnits_add, signFactor]; push_cast; rfl
  · obtain ⟨d, rfl⟩ := Nat.exists_eq_add_of_lt hk
    refine .inr ⟨by omega, ?_⟩
    have hle : signFactor neg * s ≤ s := (le_abs_self _).trans (by rw [abs_signFactor_mul, Nat.abs_cast])
    rw [add_assoc, inUnits_add, inUnits_lt]
    have : (2 : ℚ) ^ 53 ≤ 2 ^ 52 * 2 ^ (d + 1) := by
      rw [pow_succ _ d, pow_succ _ 52]; nlinarith [one_le_pow₀ (one_le_two (α := ℚ)) (n := d)]
    linarith [hs.lt]

/-- No finite number is nearer than the rounded significand, and where another one is as near the significand is even. -/
theorem nearest_significand {k' s : ℕ} (neg : Bool) (hz : IsSignificand k z) (hr : NearestEven z r) (hs : IsSignificand k' s) :
    |inUnits k z - inUnits k r| ≤ |inUnits k z - signFactor neg * inUnits k' s| ∧
      (|inUnits k z - inUnits k r| = |inUnits k z - signFactor neg * inUnits k' s| →
        signFactor neg * inUnits k' s ≠ inUnits k r → r % 2 = 0) := by
  rcases signed_significand_cases k neg hs with ⟨j, hj⟩ | ⟨hk, hbelow⟩
  · rw [hj, ← inUnits_sub, ← inUnits_sub, abs_inUnits, abs_inUnits]
    refine ⟨inUnits_le.2 (hr.le_int j), fun htie hne => hr.even_of_eq (j := j) ?_ ?_⟩
    · rintro rfl; exact hne rfl
    · exact mul_right_cancel₀ (inUnits_pos k).ne' htie
  · have hlt : |inUnits k z - inUnits k r| < |inUnits k z - signFactor neg * inUnits k' s| := by
      have hfloor := hr.le_int (2 ^ 52)
      rw [Int.cast_pow, Int.cast_ofNat, abs_of_nonneg (sub_nonneg.2 (hz.le hk))] at hfloor
      calc |inUnits k z - inUnits k r| ≤ inUnits k z - inUnits k (2 ^ 52) := by
            rw [← inUnits_sub, ← inUnits_sub, abs_inUnits]; exact inUnits_le.2 hfloor
        _ < inUnits k z - signFactor neg * inUnits k' s := by linarith
        _ ≤ _ := le_abs_self _
    exact ⟨hlt.le, fun htie => absurd htie hlt.ne⟩

/-- R16: the pattern of the rounded significand, or from the threshold on an infinity's, is the number rounded to nearest even. -/
theorem roundsTo_pattern (neg : Bool) (hz : IsSignificand k z) (hr : NearestEven z r) :
    RoundsTo (signFactor neg * inUnits k z) (f64Pattern neg (min (k * 2 ^ 52 + r) f64InfinityBits)) := by
  have hover := nearest_lt_infinity_iff hz hr
  have hnonneg : 0 ≤ inUnits k z := mul_nonneg hz.nonneg (inUnits_pos k).le
  have habs : |signFactor neg * inUnits k z| = inUnits k z := by rw [abs_signFactor_mul, abs_of_nonneg hnonneg]
  rw [RoundsTo, habs]
  constructor
  · intro hlt
    have hfin := hover.2 hlt
    rw [min_eq_left hfin.le, f64Value_nearest neg hz hr hfin]
    refine ⟨f64IsFinite_of_lt neg hfin, fun y hy => ?_⟩
    obtain ⟨k', s, hs, hvalue⟩ := exists_f64Value_eq hy
    have hy' : f64Value y = signFactor neg * (signFactor (neg ^^ f64Sign y) * inUnits k' s) := by
      rw [hvalue, ← signFactor_mul, ← mul_assoc, ← mul_assoc, signFactor_mul_self, one_mul]
    obtain ⟨hle, htie⟩ := nearest_significand (neg ^^ f64Sign y) hz hr hs
    rw [hy', ← mul_sub, ← mul_sub, abs_signFactor_mul, abs_signFactor_mul]
    refine ⟨hle, fun heq hne => ?_⟩
    have heven := htie heq fun h => hne (by rw [h])
    rw [f64Pattern_getLsbD, if_pos (by norm_num), Nat.testBit_zero, decide_eq_false_iff_not]
    omega
  · intro hge
    have hinf : f64InfinityBits ≤ k * 2 ^ 52 + r := not_lt.1 fun h => absurd (hover.1 h) (not_lt.2 hge)
    have hpos : 0 < inUnits k z := lt_of_lt_of_le (by positivity) hge
    rw [min_eq_right hinf, f64Sign_pattern]
    refine ⟨f64IsInfinite_pattern neg, ?_⟩
    cases neg
    · simp [signFactor, hpos.le]
    · simp [signFactor, hpos]

end

/-! ### The model's rounding and conversion (R16) -/

/-- The number `m * 2^e` in units of the last place the model rounds it at. -/
def scaled (m : ℕ) (e : ℤ) : ℚ := m * 2 ^ (e - f64Ulp m e)

/-- The index of that last place, counted from the least one. -/
def placeIndex (m : ℕ) (e : ℤ) : ℕ := (f64Ulp m e + 1074).toNat

theorem placeIndex_cast (m : ℕ) (e : ℤ) : (placeIndex m e : ℤ) = f64Ulp m e + 1074 := by
  simp only [placeIndex, f64Ulp]; omega

theorem inUnits_scaled (m : ℕ) (e : ℤ) : inUnits (placeIndex m e) (scaled m e) = m * 2 ^ e := by
  rw [inUnits, scaled, placeIndex_cast, mul_assoc, ← zpow_add₀ two_ne_zero]
  ring_nf

theorem scaled_isSignificand {m : ℕ} (hm : m ≠ 0) (e : ℤ) : IsSignificand (placeIndex m e) (scaled m e) := by
  have hlo : (2 : ℚ) ^ (m.log2 : ℤ) ≤ m := by exact_mod_cast Nat.log2_self_le hm
  have hhi : (m : ℚ) < 2 ^ (m.log2 + 1 : ℤ) := by exact_mod_cast Nat.lt_log2_self
  have hpos : (0 : ℚ) < 2 ^ (e - f64Ulp m e) := by positivity
  refine ⟨by rw [scaled]; positivity, ?_, fun hk => ?_⟩
  · have hulp : (m.log2 + 1 : ℤ) + (e - f64Ulp m e) ≤ 53 := by simp only [f64Ulp]; omega
    calc scaled m e < 2 ^ (m.log2 + 1 : ℤ) * 2 ^ (e - f64Ulp m e) := mul_lt_mul_of_pos_right hhi hpos
      _ = 2 ^ ((m.log2 + 1 : ℤ) + (e - f64Ulp m e)) := (zpow_add₀ two_ne_zero ..).symm
      _ ≤ 2 ^ (53 : ℤ) := zpow_le_zpow_right₀ one_le_two hulp
      _ = 2 ^ 53 := by norm_num
  · have hulp : (m.log2 : ℤ) + (e - f64Ulp m e) = 52 := by
      have := placeIndex_cast m e
      simp only [f64Ulp] at this ⊢; omega
    calc (2 : ℚ) ^ 52 = 2 ^ ((m.log2 : ℤ) + (e - f64Ulp m e)) := by rw [hulp]; norm_num
      _ = 2 ^ (m.log2 : ℤ) * 2 ^ (e - f64Ulp m e) := zpow_add₀ two_ne_zero ..
      _ ≤ scaled m e := mul_le_mul_of_nonneg_right hlo hpos.le

/-- The two forms of `scaled`, as `f64Significand` distinguishes them: a multiple, which is exact, or a quotient. -/
theorem scaled_of_le {m : ℕ} {e : ℤ} (h : f64Ulp m e ≤ e) : scaled m e = (m * 2 ^ (e - f64Ulp m e).toNat : ℕ) := by
  rw [scaled]; push_cast; rw [← zpow_natCast, Int.toNat_of_nonneg (by omega)]

theorem scaled_of_lt {m : ℕ} {e : ℤ} (h : e < f64Ulp m e) : scaled m e = m / 2 ^ (f64Ulp m e - e).toNat := by
  rw [scaled, div_eq_mul_inv, ← zpow_natCast, ← zpow_neg, Int.toNat_of_nonneg (by omega), neg_sub]

theorem f64Significand_nearestEven (m : ℕ) (e : ℤ) : NearestEven (scaled m e) (f64Significand m e) := by
  rw [f64Significand]
  split
  case isTrue h => rw [scaled_of_le h]; exact nearestEven_natCast _
  case isFalse h => rw [scaled_of_lt (by omega)]; exact roundHalfEven_nearestEven ..

/-- Where the last place divides `m * 2^e`, nothing is rounded off. -/
theorem f64Significand_exact {m : ℕ} {e : ℤ} (h : 2 ^ (f64Ulp m e - e).toNat ∣ m) : scaled m e = f64Significand m e := by
  have hnat : ∃ n : ℕ, scaled m e = n := by
    rcases le_or_gt (f64Ulp m e) e with hle | hlt
    · exact ⟨_, scaled_of_le hle⟩
    · exact ⟨m / 2 ^ (f64Ulp m e - e).toNat, by rw [scaled_of_lt hlt, Nat.cast_div h (by positivity)]; push_cast; rfl⟩
  obtain ⟨n, hn⟩ := hnat
  have hr := f64Significand_nearestEven m e
  rw [hn] at hr ⊢
  rw [hr.eq_of_natCast]

/-- R16: `f64Round` gives the pattern of `m * 2^e` rounded to a significand, which is exact where the last place divides it. -/
theorem f64Round_spec (neg : Bool) (m : ℕ) (e : ℤ) :
    ∃ (k r : ℕ) (z : ℚ), IsSignificand k z ∧ NearestEven z r ∧ inUnits k z = m * 2 ^ e ∧
      f64Round neg m e = f64Pattern neg (min (k * 2 ^ 52 + r) f64InfinityBits) ∧
      (2 ^ (f64Ulp m e - e).toNat ∣ m → z = r) := by
  by_cases hm : m = 0
  · refine ⟨0, 0, (0 : ℕ), isSignificand_natCast.2 (by simp), nearestEven_natCast 0, ?_, ?_, fun _ => rfl⟩
    · simp [inUnits, hm]
    · simp [f64Round, hm]
  · exact ⟨placeIndex m e, f64Significand m e, scaled m e, scaled_isSignificand hm e, f64Significand_nearestEven m e,
      inUnits_scaled m e, by rw [f64Round, if_neg hm, placeIndex], f64Significand_exact⟩

/-- Settles O31: the value of every finite pattern is compared with the rounded significand at the last place of the exact number. -/
theorem roundingIsToNearestEven : Obligations.RoundingIsToNearestEven := by
  intro neg m e
  obtain ⟨k, r, z, hz, hr, hvalue, hround, _⟩ := f64Round_spec neg m e
  rw [hround, mul_assoc, ← hvalue]
  exact ⟨roundsTo_pattern neg hz hr, f64Sign_pattern ..⟩

theorem f64Round_exact (neg : Bool) {m : ℕ} {e : ℤ} (hdvd : 2 ^ (f64Ulp m e - e).toNat ∣ m)
    (hlt : (m : ℚ) * 2 ^ e < (2 ^ 54 - 1) * 2 ^ 970) :
    f64IsFinite (f64Round neg m e) = true ∧ f64Value (f64Round neg m e) = signFactor neg * (m * 2 ^ e) := by
  obtain ⟨k, r, z, hz, hr, hvalue, hround, hexact⟩ := f64Round_spec neg m e
  have hfin := (nearest_lt_infinity_iff hz hr).2 (hvalue ▸ hlt)
  rw [hround, min_eq_left hfin.le, f64Value_nearest neg hz hr hfin, ← hvalue, ← hexact hdvd]
  exact ⟨f64IsFinite_of_lt neg hfin, rfl⟩

/-- The last place of an integer below 2^53 is at most 1, and those of 2^53 and 2^63 divide them. -/
theorem ulp_dvd_small {n : ℕ} (hn : n ≤ 2 ^ 53 ∨ n = 2 ^ 63) : 2 ^ (f64Ulp n 0 - 0).toNat ∣ n := by
  by_cases hlt : n < 2 ^ 53
  · have hlog : n.log2 ≤ 52 := by
      rcases Nat.eq_zero_or_pos n with rfl | hpos
      · simp
      · have := (Nat.log2_lt hpos.ne').2 hlt; omega
    rw [show (f64Ulp n 0 - 0).toNat = 0 by simp only [f64Ulp]; omega]
    exact one_dvd n
  · obtain ⟨j, hj, hdvd⟩ : ∃ j, n = 2 ^ j ∧ (f64Ulp n 0 - 0).toNat ≤ j := by
      rcases hn with hn | rfl
      · obtain rfl : n = 2 ^ 53 := by omega
        exact ⟨53, rfl, by rw [f64Ulp, Nat.log2_two_pow]; norm_num⟩
      · exact ⟨63, rfl, by rw [f64Ulp, Nat.log2_two_pow]; norm_num⟩
    conv_rhs => rw [hj]
    exact pow_dvd_pow 2 hdvd

theorem signFactor_mul_natAbs (i : ℤ) : signFactor (decide (i < 0)) * i.natAbs = i := by
  rw [Nat.cast_natAbs, signFactor]
  by_cases hi : i < 0
  · simp [hi, abs_of_neg hi]
  · simp [hi, abs_of_nonneg (not_lt.1 hi)]

/-- Settles O32: the last place of such an integer divides it, so its rounding is exact. -/
theorem smallIntegersConvertExactly : Obligations.SmallIntegersConvertExactly := by
  intro i hi
  have hn : i.natAbs ≤ 2 ^ 53 ∨ i.natAbs = 2 ^ 63 := by omega
  have hlt : (i.natAbs : ℚ) * 2 ^ (0 : ℤ) < (2 ^ 54 - 1) * 2 ^ 970 := by
    have hle : (i.natAbs : ℚ) ≤ 2 ^ 63 := by exact_mod_cast (show i.natAbs ≤ 2 ^ 63 by omega)
    have hpow : (2 : ℚ) ^ 10 ≤ 2 ^ 970 := pow_le_pow_right₀ one_le_two (by norm_num)
    rw [zpow_zero, mul_one]
    generalize (2 : ℚ) ^ 970 = u at hpow ⊢
    linarith
  obtain ⟨hfin, hvalue⟩ := f64Round_exact (decide (i < 0)) (ulp_dvd_small hn) hlt
  exact ⟨hfin, by rw [toF64, hvalue, zpow_zero, mul_one, signFactor_mul_natAbs]⟩

end Sys2Proof.Proofs

/-! SUPPORT. The statements of 10_state.md: the register window (R21 to R35), which command writes what (R39, R40), and the invariant (R38). -/

namespace Sys2Proof.Proofs

open Sys2Proof Sys2Proof.Machine

/-! ### STATUS (R22, R23) -/

/-- R22: the six flags of STATUS, from bit 2 up. -/
def statusFlags (s : State) : List Bool := [s.fvalid, s.brerr, s.crcm, s.ill, s.ovf, s.full]

theorem getLsbD_append_ofBool {w : ℕ} (x : BitVec w) (b : Bool) (i : ℕ) :
    (x ++ BitVec.ofBool b).getLsbD i = if i = 0 then b else x.getLsbD (i - 1) :=
  BitVec.getLsbD_concat x b i

/-- Above LAST, STATUS is its flags and then zeros. -/
theorem status_getLsbD (s : State) (j : ℕ) : s.status.getLsbD (j + 2) = (statusFlags s).getD j false := by
  show BitVec.getLsbD (w := 24 + 1 + 1 + 1 + 1 + 1 + 1 + 2) _ (j + 2) = _
  rw [State.status, BitVec.getLsbD_append]
  simp only [getLsbD_append_ofBool, statusFlags]
  match j with
  | 0 | 1 | 2 | 3 | 4 | 5 => rfl
  | j + 6 => simp

/-- Settles O10: LAST is the low end of STATUS, and each higher bit is its flag (or, above the six flags, 0). -/
theorem statusFieldsAtTheirBits : Obligations.StatusFieldsAtTheirBits := by
  intro s
  have hlast : s.status.extractLsb' 0 2 = s.last.code := BitVec.extractLsb'_append_eq_right
  have hhigh : s.status.extractLsb' 8 24 = 0#24 := by
    apply BitVec.eq_of_getLsbD_eq
    intro i _
    rw [BitVec.getLsbD_extractLsb', show 8 + i = (i + 6) + 2 by omega, status_getLsbD]
    simp [statusFlags]
  refine ⟨?_, status_getLsbD s 0, status_getLsbD s 1, status_getLsbD s 2, status_getLsbD s 3, status_getLsbD s 4, status_getLsbD s 5, hhigh⟩
  rw [hlast]
  cases s.last <;> decide

/-! ### SCALE and its halves (R33, R59) -/

@[simp] theorem low_append (hi lo : Word) : (hi ++ lo : Word64).extractLsb' 0 32 = lo := BitVec.extractLsb'_append_eq_right

@[simp] theorem high_append (hi lo : Word) : (hi ++ lo : Word64).extractLsb' 32 32 = hi := BitVec.extractLsb'_append_eq_left

theorem append_eq_ofNat (hi lo : Word) : hi ++ lo = BitVec.ofNat 64 (hi.toNat * 2 ^ 32 + lo.toNat) := by
  apply BitVec.eq_of_toNat_eq
  rw [BitVec.toNat_append, ← Nat.shiftLeft_add_eq_or_of_lt lo.isLt, Nat.shiftLeft_eq, BitVec.toNat_ofNat, Nat.mod_eq_of_lt]
  omega

theorem setScaleHi_setScaleLo (s : State) (lo hi : Word) : (s.setScaleLo lo).setScaleHi hi = { s with scale := hi ++ lo } := by
  simp [State.setScaleHi, State.setScaleLo]

theorem setScaleLo_setScaleHi (s : State) (lo hi : Word) : (s.setScaleHi hi).setScaleLo lo = { s with scale := hi ++ lo } := by
  simp [State.setScaleHi, State.setScaleLo]

/-- Settles O12: each write keeps the half it does not write, so both orders leave the two words side by side. -/
theorem scaleHalvesWriteInEitherOrder : Obligations.ScaleHalvesWriteInEitherOrder := by
  intro s lo hi
  refine ⟨_, _, _, _, rfl, rfl, rfl, rfl, ?_, ?_, ?_, ?_⟩
  · rw [setScaleHi_setScaleLo, append_eq_ofNat]
  · rw [setScaleHi_setScaleLo, setScaleLo_setScaleHi]
  · rw [setScaleHi_setScaleLo, State.readReg, low_append]
  · rw [setScaleHi_setScaleLo, State.readReg, high_append]

/-! ### The register window (R21) -/

/-- R21: the number each register reads as. -/
def windowValue (s : State) : Reg → ℕ
  | .status => s.status.toNat
  | .bufcnt => s.buf.length
  | .need => s.need.toNat
  | .flen => s.frb.length
  | .msgid => s.msgid.toNat
  | .fcrc => s.fcrc.toNat
  | .brpos => s.brpos.toNat
  | .resLo => s.res.toNat % 2 ^ 32
  | .resHi => s.res.toNat / 2 ^ 32
  | .scaleLo => s.scale.toNat % 2 ^ 32
  | .scaleHi => s.scale.toNat / 2 ^ 32
  | .crc => s.crc.toNat
  | .cmd | .reserved34 | .reserved38 | .reserved3C => 0

theorem low_toNat (x : Word64) : (x.extractLsb' 0 32).toNat = x.toNat % 2 ^ 32 := by simp

theorem high_toNat (x : Word64) : (x.extractLsb' 32 32).toNat = x.toNat / 2 ^ 32 := by
  have := x.isLt
  rw [BitVec.extractLsb'_toNat, Nat.shiftRight_eq_div_pow, Nat.mod_eq_of_lt]
  omega

/-- Every register is read whole, with zeros above its width: no field is wider than 32 bits, and the two counts fit in theirs. -/
theorem readReg_toNat {s : State} (h : s.buffersWf) (r : Reg) : (s.readReg r).toNat = windowValue s r := by
  obtain ⟨hbuf, hfrb⟩ := h
  cases r with
  | cmd | status | reserved34 | reserved38 | reserved3C => rfl
  | need | msgid | fcrc | brpos | crc => exact BitVec.toNat_setWidth_of_le (by decide)
  | bufcnt =>
    rw [State.readReg, BitVec.toNat_setWidth_of_le (by decide), BitVec.toNat_ofNat]
    exact Nat.mod_eq_of_lt (Nat.lt_of_le_of_lt hbuf (by decide))
  | flen => exact (BitVec.toNat_setWidth_of_le (by decide)).trans (State.flen_toNat hfrb)
  | resLo | scaleLo => exact low_toNat _
  | resHi | scaleHi => exact high_toNat _

/-- Settles O9: the entries are the registers in the order of their offsets, each with the number it reads as. -/
theorem registerMapReadsItsFields : Obligations.RegisterMapReadsItsFields := by
  intro s hbuf hfrb entry hmem
  obtain ⟨r, _, rfl⟩ : ∃ r ∈ registers, ((r.offset : ℤ), windowValue s r) = entry := List.mem_map.1 hmem
  exact ⟨r, regAt_offset r, readReg_toNat ⟨hbuf, hfrb⟩ r⟩

/-! ### Which command writes what (R39, R40) -/

/-- R101: a read that does not fail leaves the cursor within the payload. -/
theorem advance_brpos_le {s : State} {n : ℕ} (hfits : ¬ s.overruns n) : (s.advance n).brpos.toNat ≤ s.limit :=
  (State.advance_brpos_toNat hfits).trans_le (State.not_overruns.1 hfits).2

/-- R101: a read or skip moves the cursor by its width, within the payload, or fails and leaves it. -/
theorem exec_reads_brpos {i : Instr} {n : ℕ} {s t : State} (h : exec i s = .next t) (hr : Reads i n) :
    t.brpos = s.brpos ∨ (t.brpos.toNat = s.brpos.toNat + n ∧ t.brpos.toNat ≤ s.limit) := by
  rcases exec_reads hr h with ⟨_, rfl⟩ | ⟨hfits, r, d, rfl, _⟩
  · exact .inl rfl
  · exact .inr ⟨State.advance_brpos_toNat hfits, advance_brpos_le hfits⟩

/-- Settles O56: NEXT leaves the cursor at its exits EMPTY and NEED and restarts it at FRAME. -/
theorem cursorMovesOnlyByReadsAndRestarts : Obligations.CursorMovesOnlyByReadsAndRestarts := by
  intro i s t h
  cases i with
  | getu n | gets n | getsm n | getf n | getfs n | skip n =>
    rcases exec_reads_brpos (n := n.toNat) h rfl with hkept | hmoved
    · exact .inl hkept
    · exact .inr (.inl ⟨n.toNat, rfl, hmoved⟩)
  | push _ => rcases exec_push h with ⟨_, rfl⟩ | ⟨_, rfl⟩ <;> exact .inl rfl
  | next =>
    rcases exec_next h with ⟨_, rfl⟩ | ⟨_, _, _, _, _, rfl⟩ | ⟨_, _, _, _, _, _, rfl⟩
    · exact .inl rfl
    · exact .inl rfl
    · exact .inr (.inr ⟨rfl, .inr (.inr ⟨rfl, rfl⟩)⟩)
  | rewind => cases h; exact .inr (.inr ⟨rfl, .inl rfl⟩)
  | srst => cases h; exact .inr (.inr ⟨rfl, .inr (.inl rfl)⟩)
  | nop | clrerr | crcinit | crcbyte _ | crcchk _ => cases h; exact .inl rfl

/-- Settles O57, command by command: a field that differs in the next state is one the command's own rule writes. -/
theorem eachRegisterHasItsWriters : Obligations.EachRegisterHasItsWriters := by
  intro i s t h
  cases i with
  | getu n | gets n | getsm n | getf n | getfs n =>
    rcases exec_reads (n := n.toNat) (by exact rfl) h with ⟨_, rfl⟩ | ⟨_, r, d, rfl, _⟩ <;> simp [SameFrame, Reads]
  | skip n =>
    rcases exec_reads (n := n.toNat) (by exact rfl) h with ⟨_, rfl⟩ | ⟨_, r, d, rfl, hres⟩
    · simp [SameFrame, Reads]
    · obtain ⟨rfl, rfl⟩ := hres ⟨n, rfl⟩
      simp [SameFrame, Reads]
  | push _ => rcases exec_push h with ⟨_, rfl⟩ | ⟨_, rfl⟩ <;> simp [SameFrame]
  | next => rcases exec_next h with ⟨_, rfl⟩ | ⟨_, _, _, _, _, rfl⟩ | ⟨_, _, _, _, _, _, rfl⟩ <;> simp [SameFrame]
  | nop | srst | clrerr | rewind | crcinit | crcbyte _ | crcchk _ => cases h; simp [SameFrame]

/-! ### Reset (R44) -/

/-- Settles O53: each register's reset value is its field of `State.reset`. -/
theorem resetValuesOfTheRegisters : Obligations.ResetValuesOfTheRegisters := by
  unfold Obligations.ResetValuesOfTheRegisters
  decide

/-! ### The invariant, part by part (R38) -/

/-- R38, R26: the frame registers are those of no frame or those of a frame whose CRC is right. -/
def FrameInv (s : State) : Prop :=
  (s.fvalid = false → s.flen = 0#10 ∧ s.frb = [] ∧ s.msgid = 0#12 ∧ s.fcrc = 0#24) ∧
  (s.fvalid = true → (2 ≤ s.flen.toNat ∧ s.flen.toNat ≤ 1023) ∧ s.msgid = byteAt s.frb 0 ++ (byteAt s.frb 1).extractLsb' 4 4 ∧
    s.fcrc = crc24q ([0xD3#8, (s.flen.extractLsb' 8 2).setWidth 8, s.flen.extractLsb' 0 8] ++ s.frb))

/-- R38, R25: NEED is 0 but at a NEED exit, and there it is in its range. -/
def ExitInv (l : Last) (need : BitVec 11) : Prop :=
  (need ≠ 0#11 → l = .need) ∧ (l = .need → 1 ≤ need.toNat ∧ need.toNat ≤ 1026)

/-- R22: FULL is computed from CNT. -/
theorem full_iff (s : State) : s.full = true ↔ s.cnt = 2048 := beq_iff_eq

/-- The clause about FULL holds in every state, so the invariant is its four other parts. -/
theorem inv_iff {s : State} :
    s.Inv ↔ s.buffersWf ∧ FrameInv s ∧ s.brpos.toNat ≤ s.limit ∧ ExitInv s.last s.need := by
  constructor
  · rintro ⟨hwf, hno, hyes, hcur, hneed, hrange, -⟩
    exact ⟨hwf, ⟨hno, hyes⟩, hcur, hneed, hrange⟩
  · rintro ⟨hwf, ⟨hno, hyes⟩, hcur, hneed, hrange⟩
    exact ⟨hwf, hno, hyes, hcur, hneed, hrange, full_iff s⟩

theorem FrameInv.congr {s t : State} (h : FrameInv s) (hst : SameFrame s t) : FrameInv t := by
  obtain ⟨hv, hb, hm, hc⟩ := hst
  simpa only [FrameInv, hv, hb, hm, hc, State.flen_congr hb] using h

/-- Settles O58: at reset there is no frame, the cursor is at 0 and LAST is NONE. -/
theorem resetMeetsTheInvariant : Obligations.ResetMeetsTheInvariant :=
  inv_iff.2 ⟨State.buffersWf_reset, ⟨fun _ => ⟨rfl, rfl, rfl, rfl⟩, nofun⟩, Nat.zero_le _, by simp [ExitInv]⟩

/-- The invariant of a state with the same frame: the cursor is within that frame, and the buffer and the exit are in range. -/
theorem Inv.of_sameFrame {s t : State} (h : s.Inv) (hst : SameFrame s t) (hbuf : t.buf.length ≤ 2048)
    (hcur : t.brpos.toNat ≤ s.limit) (hexit : ExitInv t.last t.need) : t.Inv := by
  obtain ⟨⟨_, hfrb⟩, hframe, _⟩ := inv_iff.1 h
  have hb : t.frb = s.frb := hst.2.1
  exact inv_iff.2 ⟨⟨hbuf, by rwa [hb]⟩, hframe.congr hst, by rwa [State.limit_congr hb], hexit⟩

/-! ### The frame that NEXT latches (R154) -/

theorem byteAt_take {bytes : List Byte} {i n : ℕ} (h : i < n) : byteAt (bytes.take n) i = byteAt bytes i := by
  simp [byteAt, List.getD_eq_getElem?_getD, List.getElem?_take_of_lt h]

/-- A candidate is its three header bytes and then its payload (R142). -/
theorem take_drop_header {buf : List Byte} {p : ℕ} (h : p + 3 ≤ buf.length) (len : ℕ) :
    (buf.drop p).take (len + 3) = [byteAt buf p, byteAt buf (p + 1), byteAt buf (p + 2)] ++ (buf.drop (p + 3)).take len := by
  have hcons : ∀ i < buf.length, buf.drop i = byteAt buf i :: buf.drop (i + 1) := fun i hi => by
    rw [List.drop_eq_getElem_cons hi, byteAt, List.getD_eq_getElem _ _ hi]
  rw [hcons p (by omega), hcons (p + 1) (by omega), hcons (p + 2) (by omega)]
  rfl

/-- R142, R143: where the reserved bits are 0, the header bytes are the two parts of the length field. -/
theorem header_of_lengthField {h₁ : Byte} (h₂ : Byte) (hr : h₁.extractLsb' 2 6 = 0#6) :
    ((h₁.extractLsb' 0 2 ++ h₂).extractLsb' 8 2).setWidth 8 = h₁ ∧ (h₁.extractLsb' 0 2 ++ h₂).extractLsb' 0 8 = h₂ := by
  refine ⟨?_, BitVec.extractLsb'_append_eq_right⟩
  calc ((h₁.extractLsb' 0 2 ++ h₂).extractLsb' 8 2).setWidth 8
    _ = 0#6 ++ h₁.extractLsb' 0 2 := by rw [BitVec.extractLsb'_append_eq_left, BitVec.setWidth_eq_append (by decide)]; rfl
    _ = h₁.extractLsb' 2 6 ++ h₁.extractLsb' 0 2 := by rw [hr]
    _ = h₁.extractLsb' 0 8 := BitVec.extractLsb'_append_extractLsb'_eq_extractLsb' rfl
    _ = h₁ := BitVec.extractLsb'_eq_self

/-- FLEN of a latched frame is its length field (R154). -/
theorem latch_flen {s : State} {p : ℕ} (h : p + lengthAt s.buf p + 6 ≤ s.buf.length) (f : Crc24) :
    (s.latch p (lengthAt s.buf p) f).flen = (byteAt s.buf (p + 1)).extractLsb' 0 2 ++ byteAt s.buf (p + 2) := by
  have hlen : (s.latch p (lengthAt s.buf p) f).frb.length = lengthAt s.buf p := by simp; omega
  rw [State.flen, hlen, lengthAt, BitVec.ofNat_toNat, BitVec.setWidth_eq]

/-- R154: an accepted candidate is latched as a frame whose MSGID and FCRC are those of its payload. -/
theorem frameInv_latch {s : State} {p : ℕ} (h : AcceptedAt s.buf p) :
    FrameInv (s.latch p (lengthAt s.buf p) (trailerAt s.buf p)) := by
  obtain ⟨hsync, ⟨hreserved, hmin⟩, hend, hcrc⟩ := h
  obtain ⟨hh₁, hh₂⟩ := header_of_lengthField (byteAt s.buf (p + 2)) hreserved
  refine ⟨nofun, fun _ => ⟨⟨?_, State.flen_le _⟩, ?_, ?_⟩⟩
  · rw [latch_flen hend]
    exact hmin
  · simp only [State.latch_msgid, State.latch_frb, byteAt_take (show 0 < lengthAt s.buf p by omega),
      byteAt_take (show 1 < lengthAt s.buf p by omega), byteAt_drop]
    rfl
  · rw [latch_flen hend, hh₁, hh₂, ← hsync, State.latch_fcrc, State.latch_frb, ← hcrc, take_drop_header (by omega)]

/-- R152, R153: the number of bytes that NEXT still needs is in its range. -/
theorem need_range {buf : List Byte} {p k : ℕ} (hp : p < buf.length) (h : verdict (buf.drop p) = some (.need k)) :
    1 ≤ k ∧ k ≤ 1026 := by
  have hlen : lengthAt buf p ≤ 1023 := headerLength_drop buf p ▸ headerLength_le _
  rcases verdict_eq_some h with ⟨⟨_, hshort⟩, he⟩ | ⟨⟨_, hheader, _, hshort⟩, he⟩ | ⟨_, he⟩ <;> cases he <;> omega

theorem exitInv_need {k : ℕ} (h : 1 ≤ k ∧ k ≤ 1026) : ExitInv .need (BitVec.ofNat 11 k) :=
  ⟨fun _ => rfl, fun _ => by rw [BitVec.toNat_ofNat]; omega⟩

theorem exitInv_zero {l : Last} (h : l ≠ .need) : ExitInv l 0#11 := ⟨fun h0 => absurd rfl h0, fun hl => absurd hl h⟩

/-! ### Every command keeps the invariant (R38) -/

theorem softReset_inv (s : State) : s.softReset.Inv := resetMeetsTheInvariant

/-- R101: a read or skip writes of the invariant's fields the cursor alone. -/
theorem exec_reads_inv {i : Instr} {n : ℕ} {s t : State} (hs : s.Inv) (h : exec i s = .next t) (hr : Reads i n) : t.Inv := by
  obtain ⟨⟨hbuf, _⟩, _, hcur, hexit⟩ := inv_iff.1 hs
  rcases exec_reads hr h with ⟨_, rfl⟩ | ⟨hfits, r, d, rfl, _⟩
  · exact hs
  · exact Inv.of_sameFrame hs ⟨rfl, rfl, rfl, rfl⟩ hbuf (advance_brpos_le hfits) hexit

/-- R148: a PUSH adds a byte only where there is room for it. -/
theorem exec_push_inv {b : BitVec 8} {s t : State} (hs : s.Inv) (h : exec (.push b) s = .next t) : t.Inv := by
  obtain ⟨hwf, _, hcur, hexit⟩ := inv_iff.1 hs
  rcases exec_push h with ⟨_, rfl⟩ | ⟨hroom, rfl⟩
  · exact hs
  · exact Inv.of_sameFrame hs ⟨rfl, rfl, rfl, rfl⟩ (State.buffersWf_append hwf hroom b).1 hcur hexit

/-- R150 to R154: each exit of NEXT keeps the invariant; the FRAME exit by what it latches. -/
theorem exec_next_inv {s t : State} (hs : s.Inv) (h : exec .next s = .next t) : t.Inv := by
  obtain ⟨hwf, _, hcur, _⟩ := inv_iff.1 hs
  rcases exec_next h with ⟨_, rfl⟩ | ⟨p, k, hp, _, hv, rfl⟩ | ⟨p, len, f, hp, _, hv, rfl⟩
  · exact Inv.of_sameFrame hs ⟨rfl, rfl, rfl, rfl⟩ (State.buffersWf_discard hwf _).1 hcur (exitInv_zero nofun)
  · exact Inv.of_sameFrame hs ⟨rfl, rfl, rfl, rfl⟩ (State.buffersWf_discard hwf _).1 hcur (exitInv_need (need_range hp hv))
  · rcases verdict_eq_some hv with ⟨_, he⟩ | ⟨_, he⟩ | ⟨hacc, he⟩ <;> cases he
    have hlatch := State.buffersWf_latch hwf p (headerLength_drop s.buf p ▸ headerLength_le _) (trailerAt s.buf p)
    exact inv_iff.2 ⟨State.buffersWf_discard hlatch _, (frameInv_latch hacc).congr ⟨rfl, rfl, rfl, rfl⟩, Nat.zero_le _, exitInv_zero nofun⟩

theorem exec_inv {i : Instr} {s t : State} (hs : s.Inv) (h : exec i s = .next t) : t.Inv := by
  cases i with
  | getu n | gets n | getsm n | getf n | getfs n | skip n => exact exec_reads_inv (n := n.toNat) hs h rfl
  | push _ => exact exec_push_inv hs h
  | next => exact exec_next_inv hs h
  | srst => cases h; exact softReset_inv s
  | rewind =>
    obtain ⟨⟨hbuf, _⟩, _, _, hexit⟩ := inv_iff.1 hs
    cases h
    exact Inv.of_sameFrame hs ⟨rfl, rfl, rfl, rfl⟩ hbuf (Nat.zero_le _) hexit
  | nop | clrerr | crcinit | crcbyte _ | crcchk _ => cases h; exact hs

/-- R58, R59, R77: an access runs a command or writes no field the invariant speaks of. -/
theorem perform_inv {r : Reg} {k : AccessKind} {s t : State} (hs : s.Inv) (h : perform r k s = .next t) : t.Inv := by
  cases k with
  | read => cases h; exact hs
  | write v =>
    rcases perform_write_cases h with ⟨_, ⟨i, _, he⟩ | ⟨_, rfl⟩⟩ | ⟨_, rfl⟩ | ⟨_, rfl⟩ | ⟨_, _, _, rfl⟩
    · exact exec_inv hs he
    all_goals exact hs

/-- Settles O59: a step is idle or serves one access, which keeps the invariant; taking the access writes none of its fields. -/
theorem stepKeepsTheInvariant : Obligations.StepKeepsTheInvariant := by
  intro s t hs h
  rcases step_cases h with ⟨_, rfl⟩ | ⟨a, rest, r, _, _, _, _, hperform⟩
  · exact hs
  · exact perform_inv (s := s.taken a.agent rest) hs hperform

end Sys2Proof.Proofs

/-! SUPPORT. The statements of 20_memory.md: which host accesses are served (R56, R65), and what a read, a write and a command do (R58, R59, R60). -/

namespace Sys2Proof.Proofs

open Sys2Proof Sys2Proof.Machine

/-! ### The next access of the host (R60, R64) -/

theorem step_eq_serve {s : State} {a : Access} {rest : List Access} (hp : s.pending = a :: rest) : step s = serve a rest s := by
  simp only [step, hp]

/-- R58, R59: a step whose next access is a defined one of the block's client performs that access, in the state with it taken. -/
theorem step_eq_perform {s : State} {a : Access} {rest : List Access} {r : Reg} (hs : s.serves a.agent)
    (hp : s.pending = a :: rest) (hw : a.width = 32) (ho : a.off = r.offset) : step s = perform r a.kind (s.taken a.agent rest) :=
  (step_eq_serve hp).trans (serve_defined hs hw ho)

/-! ### Reads (R58) -/

/-- Taking an access writes no register of the block. -/
@[simp] theorem readReg_taken (s : State) (agent : ℕ) (rest : List Access) (r : Reg) :
    (s.taken agent rest).readReg r = s.readReg r := by
  cases r <;> rfl

/-- Settles O8: the read is performed, and what it reads is not changed by taking the access. -/
theorem readsChangeNoState : Obligations.ReadsChangeNoState := by
  intro s agent rest r hs hp
  refine ⟨?_, rfl, rfl, rfl, rfl⟩
  rw [step_eq_perform hs hp rfl rfl, perform, mmioRead, readReg_taken]
  rfl

/-! ### Writes (R59) -/

/-- R21: no two registers have the same offset. -/
theorem offset_injective : Function.Injective Reg.offset := by
  intro r r' h
  have hat := regAt_offset r
  rw [h, regAt_offset] at hat
  exact (Option.some.inj hat).symm

theorem mmioWrite_other {r : Reg} (hcmd : r ≠ .cmd) (hlo : r ≠ .scaleLo) (hhi : r ≠ .scaleHi) (v : Word) (s : State) :
    mmioWrite r v s = .next s := by
  cases r with
  | cmd => exact absurd rfl hcmd
  | scaleLo => exact absurd rfl hlo
  | scaleHi => exact absurd rfl hhi
  | _ => rfl

/-- Settles O11: the step is the write of the register at that offset; a write of half of SCALE joins it to the half it keeps. -/
theorem writesReachOnlyCmdAndScale : Obligations.WritesReachOnlyCmdAndScale := by
  intro s agent rest r v hs hp
  have hstep : step s = mmioWrite r v (s.taken agent rest) := step_eq_perform hs hp rfl rfl
  refine ⟨fun ho => ?_, fun ho => ?_, fun ho => ?_, fun ⟨hcmd, hlo, hhi⟩ => ?_⟩
  · obtain rfl : r = .cmd := offset_injective ho
    exact hstep
  · obtain rfl : r = .scaleLo := offset_injective ho
    exact ⟨s.scale.extractLsb' 32 32 ++ v, hstep, high_append _ _, low_append _ _⟩
  · obtain rfl : r = .scaleHi := offset_injective ho
    exact ⟨v ++ s.scale.extractLsb' 0 32, hstep, high_append _ _, low_append _ _⟩
  · have hother : ∀ {r' : Reg}, r.offset ≠ r'.offset → r ≠ r' := ne_of_apply_ne Reg.offset
    exact hstep.trans (mmioWrite_other (hother hcmd) (hother hlo) (hother hhi) v _)

/-! ### Commands (R60, R77) -/

/-- R73, R77: a word decodes only to a command whose operand is legal; format W alone restricts its operand. -/
theorem decode_wellFormed {w : Word} {i : Instr} (h : decode w = .ok i) : i.WellFormed := by
  unfold decode decodeFields at h
  split at h
  case h_1 | h_2 | h_3 | h_5 | h_6 | h_13 => obtain ⟨_, rfl⟩ := formN_ok.1 h; rfl
  case h_4 | h_14 => obtain ⟨_, _, rfl⟩ := formB_ok.1 h; rfl
  case h_7 | h_8 | h_9 | h_10 | h_11 => obtain ⟨_, _, hlegal, rfl⟩ := formW_ok.1 h; exact decide_eq_true hlegal
  case h_12 => obtain ⟨_, _, rfl⟩ := formS_ok.1 h; rfl
  case h_15 => obtain rfl := formV_ok.1 h; rfl
  case h_16 => cases h

theorem execute_of_decode_ok {w : Word} {i : Instr} (h : decode w = .ok i) (s : State) : execute w s = exec i s := by
  simp only [execute, h]

theorem execute_of_decode_error {w : Word} {e : DecodeError} (h : decode w = .error e) (s : State) :
    execute w s = .next s.markIllegal := by
  simp only [execute, h]

/-- Settles O7: the step executes the word, and the decoder answers only well-formed commands. -/
theorem stepRunsTheCommandWritten : Obligations.StepRunsTheCommandWritten := by
  intro s agent rest w hs hp
  have hstep : step s = execute w (s.taken agent rest) := step_eq_perform (r := .cmd) hs hp rfl rfl
  exact ⟨fun i hi => ⟨decode_wellFormed hi, hstep.trans (execute_of_decode_ok hi _)⟩,
    fun e he => hstep.trans (execute_of_decode_error he _)⟩

/-- Settles O17: `exec` is total, and its next state has the same record of the run. -/
theorem everyCommandCompletes : Obligations.EveryCommandCompletes := by
  intro i s
  obtain ⟨t, ht⟩ := exec_total i s
  exact ⟨t, ht, exec_sameRun ht⟩

/-! ### Refusals (R56, R65) -/

/-- R65: an access of an agent that is not the block's client is refused, whatever the access is. -/
theorem serve_secondAgent {s : State} {a : Access} (h : ¬ s.serves a.agent) (rest : List Access) :
    serve a rest s = .refused .secondAgent :=
  if_pos h

theorem serve_wrongWidth {s : State} {a : Access} (hs : s.serves a.agent) (hw : a.width ≠ 32) (rest : List Access) :
    serve a rest s = .refused .accessWidth := by
  rw [serve, if_neg (not_not.2 hs), if_pos hw]

theorem serve_misaligned {s : State} {a : Access} (hs : s.serves a.agent) (hw : a.width = 32) (h4 : a.off % 4 ≠ 0)
    (rest : List Access) : serve a rest s = .refused .accessMisaligned := by
  rw [serve, if_neg (not_not.2 hs), if_neg (not_not.2 hw), if_pos h4]

theorem serve_outsideWindow {s : State} {a : Access} (hs : s.serves a.agent) (hw : a.width = 32) (h4 : a.off % 4 = 0)
    (hout : ¬ (0 ≤ a.off ∧ a.off < 0x40)) (rest : List Access) : serve a rest s = .refused .accessOutsideWindow := by
  rw [serve, if_neg (not_not.2 hs), if_neg (not_not.2 hw), if_neg (not_not.2 h4), regAt_eq_none hout]

/-- Settles O13: inside the window a multiple of 4 is the offset of a register, which is accessed; each other access fails one of
the three checks of R56. -/
theorem undefinedAccessesAreRefused : Obligations.UndefinedAccessesAreRefused := by
  intro s a rest hs hp
  refine ⟨fun ⟨hw, h4, hlo, hhi⟩ => ?_, fun hundef => ?_⟩
  · obtain ⟨r, hr⟩ := exists_reg hlo hhi h4
    rw [step_eq_perform hs hp hw (regAt_eq_some hr)]
    exact perform_total r a.kind _
  · rw [step_eq_serve hp]
    by_cases hw : a.width = 32
    · by_cases h4 : a.off % 4 = 0
      · exact .inr (.inr (serve_outsideWindow hs hw h4 (fun hin => hundef ⟨hw, h4, hin⟩) rest))
      · exact .inr (.inl (serve_misaligned hs hw h4 rest))
    · exact .inl (serve_wrongWidth hs hw rest)

/-- R64, R65: a step that serves an access leaves its agent the client and the other accesses to come. -/
theorem step_served_record {s t : State} {a : Access} {rest : List Access} (hp : s.pending = a :: rest) (h : step s = .next t) :
    t.client = some a.agent ∧ t.pending = rest := by
  rcases step_cases h with ⟨hnil, _⟩ | ⟨a', rest', r, hp', _, _, _, hperform⟩
  · exact absurd (hp.symm.trans hnil) (List.cons_ne_nil a rest)
  · obtain ⟨rfl, rfl⟩ := List.cons.inj (hp.symm.trans hp')
    obtain ⟨hclient, hpending, _⟩ := perform_record hperform
    exact ⟨hclient, hpending⟩

/-- Settles O14: the served access, a soft reset too, leaves its agent the client, so the block does not serve the other. -/
theorem secondAgentIsRefused : Obligations.SecondAgentIsRefused := by
  intro s t a b rest hne hp h
  obtain ⟨hclient, hpending⟩ := step_served_record hp h
  have hrefuse : ¬ t.serves b.agent := by simp [State.serves, hclient, hne]
  exact ⟨hpending, (step_eq_serve hpending).trans (serve_secondAgent hrefuse rest)⟩

end Sys2Proof.Proofs

/-! SUPPORT. The statements of 30_encoding.md: the round trips (R70 to R77), the rows of the opcode map and the illegal words (R76 to
R78), and the lines of a host program (R80, R81). -/

namespace Sys2Proof.Proofs

open Sys2Proof Sys2Proof.Machine

/-! ### The two round trips (R70 to R77) -/

/-- Settles O1: the word of a command has the command's opcode, and its operand field is one the opcode's format accepts. -/
theorem decodeInvertsEncode : Obligations.DecodeInvertsEncode := by
  intro i hi
  cases i with
  | nop | srst | clrerr | next | rewind | crcinit => exact (decode_wordOf _ _).trans (formN_ok.2 ⟨rfl, rfl⟩)
  | push b | crcbyte b => exact (decode_wordOf _ _).trans (formB_ok.2 ⟨b, rfl, rfl⟩)
  | getu n | gets n | getsm n | getf n | getfs n =>
    exact (decode_wordOf _ _).trans (formW_ok.2 ⟨n, rfl, of_decide_eq_true hi, rfl⟩)
  | skip n => exact (decode_wordOf _ _).trans (formS_ok.2 ⟨n, rfl, rfl⟩)
  | crcchk v => exact decode_wordOf _ _

/-- R76: the fields that decode to a command are those of the command's word. -/
theorem encode_of_decodeFields {opc : BitVec 8} {a : BitVec 24} {i : Instr} (h : decodeFields opc a = .ok i) :
    encode i = wordOf opc a := by
  unfold decodeFields at h
  split at h
  case h_1 | h_2 | h_3 | h_5 | h_6 | h_13 => obtain ⟨rfl, rfl⟩ := formN_ok.1 h; rfl
  case h_4 | h_14 => obtain ⟨_, rfl, rfl⟩ := formB_ok.1 h; rfl
  case h_7 | h_8 | h_9 | h_10 | h_11 => obtain ⟨_, rfl, _, rfl⟩ := formW_ok.1 h; rfl
  case h_12 => obtain ⟨_, rfl, rfl⟩ := formS_ok.1 h; rfl
  case h_15 => obtain rfl := formV_ok.1 h; rfl
  case h_16 => cases h

/-- Settles O2: a word is its two fields, and the decoder answers only well-formed commands. -/
theorem encodeInvertsDecode : Obligations.EncodeInvertsDecode := by
  intro w i h
  exact ⟨(encode_of_decodeFields h).trans (wordOf_fields w), decode_wellFormed h⟩

/-! ### The rows of the opcode map (R76) -/

/-- R71: the bits of the operand field that a format requires to be 0, as the masks of R76 have them. -/
def argMask : Format → BitVec 24
  | .N => 0xFFFFFF#24
  | .B => 0xFFFF00#24
  | .W => 0xFFFF80#24
  | .S => 0xFFC000#24
  | .V => 0x000000#24

/-- R71, R73: the operand fields of a format's diagram. -/
def Accepts : Format → BitVec 24 → Prop
  | .N, a => a = 0#24
  | .B, a => ∃ b : BitVec 8, a = 0#16 ++ b
  | .W, a => ∃ n : BitVec 7, a = 0#17 ++ n ∧ widthLegal n
  | .S, a => ∃ n : BitVec 14, a = 0#10 ++ n
  | .V, _ => True

/-- R76: the match and the mask of a row are its opcode and the zero bits of its format. -/
theorem row_shape : ∀ r ∈ opcodeTable, r.code = wordOf (opcOf r.code) 0#24 ∧ r.mask = wordOf 0xFF#8 (argMask r.format) := by decide

/-- R76: "the OPC values differ". -/
theorem row_eq_of_opcode : ∀ r ∈ opcodeTable, ∀ r' ∈ opcodeTable, opcOf r.code = opcOf r'.code → r = r' := by decide

theorem wordOf_inj {opc opc' : BitVec 8} {a a' : BitVec 24} : wordOf opc a = wordOf opc' a' ↔ opc = opc' ∧ a = a' :=
  ⟨fun h => ⟨by simpa using congrArg opcOf h, by simpa using congrArg argOf h⟩, fun ⟨h, h'⟩ => by rw [h, h']⟩

/-- R76: a word matches a row when it has the row's opcode and zeros where the row's format wants them. -/
theorem masked_eq_code_iff {r : OpcodeRow} (hr : r ∈ opcodeTable) (w : Word) :
    w &&& r.mask = r.code ↔ opcOf w = opcOf r.code ∧ argOf w &&& argMask r.format = 0#24 := by
  obtain ⟨hcode, hmask⟩ := row_shape r hr
  have hand : w &&& r.mask = wordOf (opcOf w) (argOf w &&& argMask r.format) := by
    conv_lhs => rw [hmask, ← wordOf_fields w, wordOf, wordOf, BitVec.and_append]
    rw [show opcOf w &&& 0xFF#8 = opcOf w from BitVec.and_allOnes, wordOf]
  conv_lhs => rw [hand, hcode, wordOf_inj]

/-- A field is 0 under the mask of its upper part when that part is 0. -/
theorem masked_eq_zero_iff {m n : ℕ} (a : BitVec (m + n)) :
    a &&& (BitVec.allOnes m ++ 0#n) = 0#(m + n) ↔ ∃ x : BitVec n, a = 0#m ++ x := by
  conv_lhs => rw [← append_extract a, BitVec.and_append, BitVec.and_allOnes, BitVec.and_zero, ← BitVec.zero_append_zero,
    BitVec.append_left_inj]
  constructor
  · intro h
    exact ⟨a.extractLsb' 0 n, by rw [← h, append_extract]⟩
  · rintro ⟨x, rfl⟩
    exact extract_hi_append _ _

/-- R70, R73: the width bits of a word are those of its operand field. -/
theorem width_eq_argOf (w : Word) : w.extractLsb' 0 7 = (argOf w).extractLsb' 0 7 := by
  rw [argOf, BitVec.extractLsb'_extractLsb'_of_le (by norm_num)]

/-- R76: the match and the extra condition of a row say that the word has the row's opcode and an operand field of its format. -/
theorem selectedBy_iff {r : OpcodeRow} (hr : r ∈ opcodeTable) (w : Word) :
    r.selectedBy w ↔ opcOf w = opcOf r.code ∧ Accepts r.format (argOf w) := by
  rw [OpcodeRow.selectedBy, masked_eq_code_iff hr, and_assoc]
  refine and_congr_right fun _ => ?_
  cases r.format with
  | N =>
    have hall : argOf w &&& 0xFFFFFF#24 = argOf w := BitVec.and_allOnes
    simp [argMask, Accepts, hall]
  | B => simpa [argMask, Accepts] using masked_eq_zero_iff (m := 16) (n := 8) (argOf w)
  | W =>
    have hzero : argOf w &&& 0xFFFF80#24 = 0#24 ↔ ∃ n : BitVec 7, argOf w = 0#17 ++ n :=
      masked_eq_zero_iff (m := 17) (n := 7) (argOf w)
    rw [argMask, hzero, Accepts, width_eq_argOf]
    constructor
    · rintro ⟨⟨n, hn⟩, hle⟩
      rw [hn, extract_lo_append (m := 17)] at hle
      exact ⟨n, hn, hle rfl⟩
    · rintro ⟨n, hn, hle⟩
      rw [hn, extract_lo_append (m := 17)]
      exact ⟨⟨n, rfl⟩, fun _ => hle⟩
  | S => simpa [argMask, Accepts] using masked_eq_zero_iff (m := 10) (n := 14) (argOf w)
  | V => simp [argMask, Accepts]

/-! The check of each format, for a row of one mnemonic, accepts the operand fields of the format's diagram (R71). -/

theorem formN_accepts {i : Instr} {name : String} (hname : i.mnemonic = name) (a : BitVec 24) :
    (∃ j, formN i a = .ok j ∧ j.mnemonic = name) ↔ Accepts .N a := by
  simp [formN_ok, Accepts, hname]

theorem formB_accepts {mk : BitVec 8 → Instr} {name : String} (hname : ∀ b, (mk b).mnemonic = name) (a : BitVec 24) :
    (∃ j, formB mk a = .ok j ∧ j.mnemonic = name) ↔ Accepts .B a := by
  simp only [formB_ok, Accepts]
  exact ⟨fun ⟨_, ⟨b, hb, _⟩, _⟩ => ⟨b, hb⟩, fun ⟨b, hb⟩ => ⟨_, ⟨b, hb, rfl⟩, hname b⟩⟩

theorem formW_accepts {mk : BitVec 7 → Instr} {name : String} (hname : ∀ n, (mk n).mnemonic = name) (a : BitVec 24) :
    (∃ j, formW mk a = .ok j ∧ j.mnemonic = name) ↔ Accepts .W a := by
  simp only [formW_ok, Accepts]
  exact ⟨fun ⟨_, ⟨n, hn, hle, _⟩, _⟩ => ⟨n, hn, hle⟩, fun ⟨n, hn, hle⟩ => ⟨_, ⟨n, hn, hle, rfl⟩, hname n⟩⟩

theorem formS_accepts {mk : BitVec 14 → Instr} {name : String} (hname : ∀ n, (mk n).mnemonic = name) (a : BitVec 24) :
    (∃ j, formS mk a = .ok j ∧ j.mnemonic = name) ↔ Accepts .S a := by
  simp only [formS_ok, Accepts]
  exact ⟨fun ⟨_, ⟨n, hn, _⟩, _⟩ => ⟨n, hn⟩, fun ⟨n, hn⟩ => ⟨_, ⟨n, hn, rfl⟩, hname n⟩⟩

theorem formV_accepts {mk : BitVec 24 → Instr} {name : String} (hname : ∀ v, (mk v).mnemonic = name) (a : BitVec 24) :
    (∃ j, formV mk a = .ok j ∧ j.mnemonic = name) ↔ Accepts .V a := by
  simp [formV_ok, Accepts, hname]

/-- R76: the opcode of a row decodes to a command of the row's mnemonic exactly on the operand fields of the row's format. -/
theorem decodeFields_row_iff : ∀ r ∈ opcodeTable, ∀ a : BitVec 24,
    (∃ i, decodeFields (opcOf r.code) a = .ok i ∧ i.mnemonic = r.mnemonic) ↔ Accepts r.format a := by
  simp only [opcodeTable, List.forall_mem_cons]
  exact ⟨formN_accepts rfl, formN_accepts rfl, formN_accepts rfl, formB_accepts fun _ => rfl, formN_accepts rfl, formN_accepts rfl,
    formW_accepts fun _ => rfl, formW_accepts fun _ => rfl, formW_accepts fun _ => rfl, formW_accepts fun _ => rfl,
    formW_accepts fun _ => rfl, formS_accepts fun _ => rfl, formN_accepts rfl, formB_accepts fun _ => rfl,
    formV_accepts fun _ => rfl, fun _ h => absurd h List.not_mem_nil⟩

/-- R76: every command has a row, under its mnemonic, that its word matches. -/
theorem exists_row (i : Instr) : Laws.Opcode.Statement i :=
  match i with
  | .nop => Laws.Opcode.nop
  | .srst => Laws.Opcode.srst
  | .clrerr => Laws.Opcode.clrerr
  | .push b => Laws.Opcode.push b
  | .next => Laws.Opcode.next
  | .rewind => Laws.Opcode.rewind
  | .getu n => Laws.Opcode.getu n
  | .gets n => Laws.Opcode.gets n
  | .getsm n => Laws.Opcode.getsm n
  | .getf n => Laws.Opcode.getf n
  | .getfs n => Laws.Opcode.getfs n
  | .skip n => Laws.Opcode.skip n
  | .crcinit => Laws.Opcode.crcinit
  | .crcbyte b => Laws.Opcode.crcbyte b
  | .crcchk v => Laws.Opcode.crcchk v

/-- R76: a word decodes to a command of a mnemonic exactly when it selects a row of that mnemonic. -/
theorem decode_mnemonic_iff (w : Word) (name : String) :
    (∃ i, decode w = .ok i ∧ i.mnemonic = name) ↔ ∃ r ∈ opcodeTable, r.mnemonic = name ∧ r.selectedBy w := by
  constructor
  · rintro ⟨i, hi, rfl⟩
    obtain ⟨r, hr, hname, hmatch⟩ := exists_row i
    rw [(encodeInvertsDecode w i hi).1] at hmatch
    have hopc := ((masked_eq_code_iff hr w).1 hmatch).1
    have hacc := (decodeFields_row_iff r hr (argOf w)).1 ⟨i, hopc ▸ hi, hname.symm⟩
    exact ⟨r, hr, hname, (selectedBy_iff hr w).2 ⟨hopc, hacc⟩⟩
  · rintro ⟨r, hr, rfl, hsel⟩
    obtain ⟨hopc, hacc⟩ := (selectedBy_iff hr w).1 hsel
    obtain ⟨i, hi, hname⟩ := (decodeFields_row_iff r hr (argOf w)).2 hacc
    exact ⟨i, by rw [decode, hopc, hi], hname⟩

/-- R76: "At most one row matches any word". -/
theorem selectedBy_unique (w : Word) :
    ∀ r ∈ opcodeTable, ∀ r' ∈ opcodeTable, r.selectedBy w → r'.selectedBy w → r = r' := by
  intro r hr r' hr' h h'
  exact row_eq_of_opcode r hr r' hr' (((selectedBy_iff hr w).1 h).1.symm.trans ((selectedBy_iff hr' w).1 h').1)

/-- Settles O3: a word decodes to a command of a mnemonic through that mnemonic's row, and the rows differ in their opcodes. -/
theorem wordSelectsItsTableRow : Obligations.WordSelectsItsTableRow :=
  ⟨decode_mnemonic_iff, selectedBy_unique⟩

/-! ### Illegal words (R77, R78) -/

/-- R77: the words that select no row are those the decoder answers with an error. -/
theorem selects_none_iff (w : Word) : (∀ r ∈ opcodeTable, ¬ r.selectedBy w) ↔ ∃ e, decode w = .error e := by
  constructor
  · intro hnone
    cases h : decode w with
    | error e => exact ⟨e, rfl⟩
    | ok i =>
      obtain ⟨r, hr, _, hsel⟩ := (decode_mnemonic_iff w i.mnemonic).1 ⟨i, h, rfl⟩
      exact absurd hsel (hnone r hr)
  · rintro ⟨e, he⟩ r hr hsel
    obtain ⟨i, hi, _⟩ := (decode_mnemonic_iff w r.mnemonic).2 ⟨r, hr, rfl, hsel⟩
    cases he.symm.trans hi

theorem execute_of_selects_none {w : Word} (h : ∀ r ∈ opcodeTable, ¬ r.selectedBy w) (s : State) :
    execute w s = .next { s with ill := true } :=
  let ⟨_, he⟩ := (selects_none_iff w).1 h
  execute_of_decode_error he s

/-- R77: the cases (a), (b) and (c): a word with a row's opcode selects that row or none, and fails its mask or its width. -/
theorem selects_none_cases (w : Word) :
    (∀ r ∈ opcodeTable, ¬ r.selectedBy w) ↔
      (∀ r ∈ opcodeTable, opcOf r.code ≠ opcOf w) ∨
      (∃ r ∈ opcodeTable, opcOf r.code = opcOf w ∧ w &&& r.mask ≠ r.code) ∨
      (∃ r ∈ opcodeTable, r.format = .W ∧ w &&& r.mask = r.code ∧ 65 ≤ (w.extractLsb' 0 7).toNat) := by
  constructor
  · intro hnone
    by_cases hopc : ∃ r ∈ opcodeTable, opcOf r.code = opcOf w
    · obtain ⟨r, hr, hopc⟩ := hopc
      by_cases hmatch : w &&& r.mask = r.code
      · have hwidth : ¬ (r.format = .W → (w.extractLsb' 0 7).toNat ≤ 64) := fun h => hnone r hr ⟨hmatch, h⟩
        obtain ⟨hW, hlt⟩ := Classical.not_imp.1 hwidth
        exact .inr (.inr ⟨r, hr, hW, hmatch, not_le.1 hlt⟩)
      · exact .inr (.inl ⟨r, hr, hopc, hmatch⟩)
    · exact .inl fun r hr h => hopc ⟨r, hr, h⟩
  · intro hcase r' hr' hsel
    have hopc' := ((selectedBy_iff hr' w).1 hsel).1
    rcases hcase with hres | ⟨r, hr, hopc, hbit⟩ | ⟨r, hr, hW, hmatch, hwide⟩
    · exact hres r' hr' hopc'.symm
    · obtain rfl := row_eq_of_opcode r hr r' hr' (hopc.trans hopc')
      exact hbit hsel.1
    · obtain rfl := row_eq_of_opcode r hr r' hr' (((masked_eq_code_iff hr w).1 hmatch).1.symm.trans hopc')
      exact absurd (hsel.2 hW) (not_le.2 hwide)

/-- Settles O4: the words that select no row are those the decoder rejects. -/
theorem illegalWordSetsOnlyIll : Obligations.IllegalWordSetsOnlyIll := fun w s =>
  ⟨fun _ hi => execute_of_decode_ok hi s, fun hnone => execute_of_selects_none hnone s, selects_none_cases w⟩

/-- R78: the ranges of the reserved opcodes. -/
abbrev IsReserved (opc : ℕ) : Prop :=
  (0x03 ≤ opc ∧ opc ≤ 0x0F) ∨ (0x12 ≤ opc ∧ opc ≤ 0x1F) ∨ (0x27 ≤ opc ∧ opc ≤ 0x2F) ∨ 0x33 ≤ opc

theorem row_opcode_not_reserved : ∀ r ∈ opcodeTable, ¬ IsReserved (opcOf r.code).toNat := by decide

/-- Settles O5: a word with a reserved opcode is illegal by case (a) of R77. -/
theorem reservedOpcodesAreIllegal : Obligations.ReservedOpcodesAreIllegal := by
  intro opc arg s hres
  have hnone : ∀ r ∈ opcodeTable, ¬ r.selectedBy (wordOf opc arg) := by
    refine (selects_none_cases _).2 (.inl fun r hr hopc => row_opcode_not_reserved r hr ?_)
    rwa [hopc, opcOf_wordOf]
  obtain ⟨e, he⟩ := (selects_none_iff _).1 hnone
  exact ⟨fun i hi => (by cases he.symm.trans hi), execute_of_selects_none hnone s⟩

/-- Settles O6: the decoder evaluated on each word of the table. -/
theorem specEncodingExamplesDecode : Obligations.SpecEncodingExamplesDecode := by
  unfold Obligations.SpecEncodingExamplesDecode
  decide

/-! ### Command lines of a host program (R80) -/

theorem below_map_eq_some {bound v : ℕ} {mk : ℕ → Instr} {i : Instr} :
    (below bound v).map mk = some i ↔ v < bound ∧ mk v = i := by
  by_cases h : v < bound <;> simp [below, h]

theorem operand_ofNat {bound v k : ℕ} (hv : v < bound) (hk : bound ≤ 2 ^ k) : some (BitVec.ofNat k v).toNat = some v := by
  rw [BitVec.toNat_ofNat, Nat.mod_eq_of_lt (hv.trans_le hk)]

/-- R80: a well-formed command is assembled from its mnemonic and its operand. -/
theorem assembleCommand_of_wellFormed {i : Instr} (hi : i.WellFormed) : assembleCommand i.mnemonic (operandOf i) = some i := by
  cases i with
  | nop | srst | clrerr | next | rewind | crcinit => rfl
  | push x | crcbyte x | skip x | crcchk x => exact below_map_eq_some.2 ⟨x.isLt, by simp⟩
  | getu n | gets n | getsm n | getf n | getfs n =>
    exact below_map_eq_some.2 ⟨Nat.lt_succ_of_le (of_decide_eq_true hi), by simp⟩

/-- R80: what the assembler answers is the well-formed command of the mnemonic and the operand it was given. -/
theorem eq_of_assembleCommand {m : String} {x : Option ℕ} {i : Instr} (h : assembleCommand m x = some i) :
    i.mnemonic = m ∧ operandOf i = x ∧ i.WellFormed := by
  unfold assembleCommand at h
  split at h
  · split_ifs at h with hm hm hm hm hm hm <;> cases h <;> exact ⟨hm.symm, rfl, rfl⟩
  · split_ifs at h with hm hm hm hm hm hm hm hm hm
    all_goals
      obtain ⟨hlt, rfl⟩ := below_map_eq_some.1 h
      exact ⟨hm.symm, operand_ofNat hlt (by norm_num), by simp [Instr.WellFormed, Instr.wellFormed, Config.maxN] <;> omega⟩

theorem zeros_append_toNat {m n : ℕ} (x : BitVec n) : (0#m ++ x).toNat = x.toNat := by simp [BitVec.toNat_append]

/-- R71 to R75: the operand field of a command's word is the operand. -/
theorem argOf_encode_toNat {i : Instr} {v : ℕ} (h : operandOf i = some v) : (argOf (encode i)).toNat = v := by
  cases i with
  | nop | srst | clrerr | next | rewind | crcinit => cases h
  | push x | crcbyte x | getu x | gets x | getsm x | getf x | getfs x | skip x =>
    obtain rfl := Option.some.inj h
    exact (congrArg BitVec.toNat (argOf_wordOf _ _)).trans (zeros_append_toNat x)
  | crcchk x =>
    obtain rfl := Option.some.inj h
    exact congrArg BitVec.toNat (argOf_wordOf _ _)

theorem argOf_toNat (w : Word) : (argOf w).toNat = w.toNat % 2 ^ 24 := by simp [argOf]

/-- R80: the greatest operand a command of the mnemonic is written with. -/
def operandMax (m : String) : ℕ :=
  if m = "PUSH" ∨ m = "CRCBYTE" then 255 else if m = "SKIP" then 16383 else if m = "CRCCHK" then 0xFFFFFF else 64

theorem operandOf_le_max {i : Instr} {v : ℕ} (hi : i.WellFormed) (h : operandOf i = some v) : v ≤ operandMax i.mnemonic := by
  cases i with
  | nop | srst | clrerr | next | rewind | crcinit => cases h
  | push x | crcbyte x | skip x | crcchk x =>
    obtain rfl := Option.some.inj h
    exact Nat.le_sub_one_of_lt x.isLt
  | getu n | gets n | getsm n | getf n | getfs n =>
    obtain rfl := Option.some.inj h
    exact of_decide_eq_true hi

/-- R80: an operand out of the mnemonic's range is rejected. -/
theorem assembleCommand_eq_none {m : String} {v : ℕ} (h : operandMax m < v) : assembleCommand m (some v) = none := by
  refine Option.eq_none_iff_forall_ne_some.2 fun i hi => ?_
  obtain ⟨rfl, hv, hwf⟩ := eq_of_assembleCommand hi
  exact absurd (operandOf_le_max hwf hv) (not_le.2 h)

/-- R73: the five mnemonics of format W have the greatest width for their greatest operand. -/
theorem operandMax_width : ∀ m ∈ ["GETU", "GETS", "GETSM", "GETF", "GETFS"], operandMax m = 64 := by decide

/-- Settles O19: the assembler answers a command exactly for that command's mnemonic and operand, both legal. -/
theorem assemblerEncodesOnlyLegalWords : Obligations.AssemblerEncodesOnlyLegalWords := by
  refine ⟨fun i hi => ⟨assembleCommand_of_wellFormed hi, fun agent => ?_⟩, fun m x i h => ?_, fun v hv m hm => ?_,
    fun v hv => ⟨assembleCommand_eq_none hv, assembleCommand_eq_none hv⟩, fun v hv => assembleCommand_eq_none hv,
    fun v hv => assembleCommand_eq_none hv⟩
  · rw [assemble, assembleCommand_of_wellFormed hi]
    rfl
  · obtain ⟨hm, hx, hi⟩ := eq_of_assembleCommand h
    exact ⟨hm, hx, hi, decodeInvertsEncode i hi, fun v hv => by rw [← argOf_toNat, argOf_encode_toNat (hx.trans hv)]⟩
  · exact assembleCommand_eq_none (operandMax_width m hm ▸ hv)

/-! ### Pseudo-instructions (R81) -/

/-- A byte line stands for one command a byte. -/
theorem mapM_command (agent : ℕ) {m : String} {mk : Byte → Instr} (h : ∀ b, assembleCommand m (some b.toNat) = some (mk b))
    (bytes : List Byte) :
    ((bytes.map BitVec.toNat).mapM fun b => (assembleCommand m (some b)).map (commandAccess agent)) =
      some (bytes.map fun b => commandAccess agent (mk b)) := by
  simp only [List.mapM_map, Function.comp_def, h, Option.map_some]
  exact List.mapM_pure

theorem scalePattern_pattern (x : Word64) : scalePattern (.pattern x.toNat) = some x := by
  simp [scalePattern, below, x.isLt]

theorem rdresValue_toNat (lo hi : Word) : (rdresValue lo hi).toNat = hi.toNat * 2 ^ 32 + lo.toNat := by
  rw [rdresValue, append_eq_ofNat, BitVec.toNat_ofNat, Nat.mod_eq_of_lt (by omega)]

/-- R16: a finite pattern's number has the pattern's sign and at least the least last place. -/
theorem f64Unpack_finite {b : Word64} {neg : Bool} {m : ℕ} {e : ℤ} (h : f64Unpack b = .finite neg m e) :
    f64IsFinite b = true ∧ neg = f64Sign b ∧ -1074 ≤ e := by
  unfold f64Unpack at h
  split at h
  · split at h <;> cases h
  · rename_i hexp
    refine ⟨bne_iff_ne.2 hexp, ?_⟩
    split at h
    · cases h; exact ⟨rfl, le_rfl⟩
    · rename_i hzero
      cases h
      have hpos : (f64Exponent b).toNat ≠ 0 := fun h0 => hzero (BitVec.eq_of_toNat_eq h0)
      exact ⟨rfl, by omega⟩

theorem f64Sign_round (neg : Bool) (m : ℕ) (e : ℤ) : f64Sign (f64Round neg m e) = neg := by
  obtain ⟨_, _, _, _, _, _, hround, _⟩ := f64Round_spec neg m e
  rw [hround, f64Sign_pattern]

/-- R81: the check of a decimal literal compares the number of the finite pattern it is rounded to with `digits / 10^places`. -/
theorem scalePattern_decimal {neg : Bool} {digits places : ℕ} {r : Word64} (h : scalePattern (.decimal neg digits places) = some r) :
    5 ^ places ∣ digits ∧ f64Sign r = neg ∧ ∃ sign m e, f64Unpack r = .finite sign m e ∧
      m * 2 ^ (e + 1074).toNat * 2 ^ places = digits / 5 ^ places * 2 ^ 1074 := by
  simp only [scalePattern] at h
  split at h
  case isTrue => cases h
  case isFalse hdvd =>
    split at h
    case h_1 hfin =>
      split at h
      case isTrue hexact =>
        obtain rfl := Option.some.inj h
        exact ⟨Nat.dvd_of_mod_eq_zero (not_not.1 hdvd), f64Sign_round .., _, _, _, hfin, hexact⟩
      case isFalse => cases h
    case h_2 | h_3 => cases h

/-- The comparison of `m * 2^e` with `d / 2^p` in natural numbers, both multiplied by `2^(k + p)`. -/
theorem mul_zpow_eq {m d p k : ℕ} {e : ℤ} (he : 0 ≤ e + k) (h : m * 2 ^ (e + k).toNat * 2 ^ p = d * 2 ^ k) :
    (m : ℚ) * 2 ^ e * 2 ^ p = d := by
  have hcast : (m : ℚ) * 2 ^ (e + k) * 2 ^ p = d * 2 ^ k := by
    rw [← Int.toNat_of_nonneg he]
    exact_mod_cast h
  rw [zpow_add₀ two_ne_zero, zpow_natCast] at hcast
  refine mul_right_cancel₀ (b := (2 : ℚ) ^ k) (by positivity) ?_
  rw [← hcast]
  ring

/-- R81: an accepted decimal literal gives a finite pattern of exactly its number. -/
theorem scalePattern_decimal_exact {neg : Bool} {digits places : ℕ} {r : Word64}
    (h : scalePattern (.decimal neg digits places) = some r) :
    f64IsFinite r = true ∧ f64Value r * 10 ^ places = signFactor neg * digits := by
  obtain ⟨⟨d, rfl⟩, hneg, sign, m, e, hunpack, hexact⟩ := scalePattern_decimal h
  obtain ⟨hfin, hsign, hulp⟩ := f64Unpack_finite hunpack
  obtain rfl : sign = neg := hsign.trans hneg
  rw [Nat.mul_div_cancel_left _ (by positivity)] at hexact
  have hmag : (m : ℚ) * 2 ^ e * 2 ^ places = d := mul_zpow_eq (k := 1074) (by omega) hexact
  have hvalue : f64Value r = signFactor sign * m * 2 ^ e := by simp only [f64Value, hunpack, signFactor]
  refine ⟨hfin, ?_⟩
  calc f64Value r * 10 ^ places = signFactor sign * (5 ^ places * (m * 2 ^ e * 2 ^ places)) := by
        rw [hvalue, show (10 : ℚ) = 2 * 5 by norm_num, mul_pow]; ring
    _ = signFactor sign * (5 ^ places * d : ℕ) := by rw [hmag]; push_cast; rfl

/-- Settles O20: each expansion is read off the assembler, byte by byte; a decimal scale passes its exact check. -/
theorem pseudoInstructionsExpand : Obligations.PseudoInstructionsExpand := by
  intro agent bytes x
  refine ⟨?_, ?_, ?_, rfl, rfl, rdresValue_toNat, fun neg digits places r => scalePattern_decimal_exact⟩
  · exact mapM_command agent (fun b => assembleCommand_of_wellFormed (i := .push b) rfl) bytes
  · rw [assemble, mapM_command agent (fun b => assembleCommand_of_wellFormed (i := .crcbyte b) rfl) bytes]
    rfl
  · rw [assemble, scalePattern_pattern, BitVec.setWidth_ushiftRight_eq_extractLsb]
    rfl

end Sys2Proof.Proofs

/-! SUPPORT. The statements of 40_bitreader.md: what each bit-reader command reads and writes (R101 to R108), and the laws of the reads (R109
to R111). -/

namespace Sys2Proof.Proofs

open Sys2Proof Sys2Proof.Machine

variable {s t : State}

/-! ### The read (R101) -/

theorem not_overruns_of_fits {n : ℕ} (h : Fits s n) : ¬ s.overruns n := State.not_overruns.2 h

theorem fieldSum_lt (s : State) (p n : ℕ) : fieldSum s p n < 2 ^ n := fieldSum_eq s p n ▸ fieldValue_lt _ p n

theorem fieldSum_lt_of_width (s : State) (p : ℕ) {n : ℕ} (hn : n ≤ 64) : fieldSum s p n < 2 ^ 64 :=
  (fieldSum_lt s p n).trans_le (Nat.pow_le_pow_right (by norm_num) hn)

/-- R101: the read of a field that fits hands on R12's sum and a state whose cursor alone has moved. -/
theorem readThen_of_fits {n : ℕ} (h : Fits s n) (k : ℕ → State → State) :
    s.readThen n k = k (fieldSum s s.brpos.toNat n) { s with brpos := BitVec.ofNat 13 (s.brpos.toNat + n) } := by
  rw [State.readThen_fits k (not_overruns_of_fits h), fieldSum_eq, ← State.advance_brpos_eq]
  rfl

/-- R101: the cursor's sum does not wrap. -/
theorem brpos_add_lt_of_fits {n : ℕ} (h : Fits s n) : s.brpos.toNat + n < 2 ^ 13 := State.brpos_add_lt (not_overruns_of_fits h)

/-- R101, R111: a command whose field does not fit sets BRERR, whatever it would have done with the field. -/
theorem exec_reads_of_not_fits {i : Instr} {n : ℕ} (hr : Reads i n) (h : ¬ Fits s n) : exec i s = .next { s with brerr := true } := by
  obtain ⟨t, ht⟩ := exec_total i s
  rcases exec_reads hr ht with ⟨_, rfl⟩ | ⟨hfits, _⟩
  · exact ht
  · exact absurd (State.not_overruns.1 hfits) h

/-! ### The words of the commands (R71, R76) -/

/-- R73: the opcode's word with a width at its low end decodes to the opcode's command of that width. -/
theorem decode_or_width {opc : BitVec 8} {i : Instr} {n : BitVec 7} (hi : i.WellFormed) (henc : encode i = wordW opc n) :
    decode (wordOf opc 0#24 ||| n.setWidth 32) = .ok i := by
  rw [wordOf_or opc n (by decide), width_setWidth]
  exact (congrArg decode henc).symm.trans (decodeInvertsEncode i hi)

/-- R74: the same for a count. -/
theorem decode_or_count {opc : BitVec 8} {i : Instr} {n : BitVec 14} (hi : i.WellFormed) (henc : encode i = wordS opc n) :
    decode (wordOf opc 0#24 ||| n.setWidth 32) = .ok i := by
  rw [wordOf_or opc n (by decide), count_setWidth]
  exact (congrArg decode henc).symm.trans (decodeInvertsEncode i hi)

/-! ### REWIND, SKIP and the reads of an integer (R102 to R105, R108) -/

/-- Settles O21: the cursor and BRERR are the two fields `State.rewind` writes. -/
theorem rewindRestartsTheReader : Obligations.RewindRestartsTheReader :=
  fun _ => ⟨decodeInvertsEncode .rewind rfl, rfl⟩

/-- Settles O22: at most 64 bits sum to less than 2^64, and GETU writes the sum. -/
theorem getuReadsUnsignedField : Obligations.GetuReadsUnsignedField := by
  intro s n hn
  refine ⟨decode_or_width (opc := 0x21#8) (i := .getu n) (decide_eq_true hn) rfl,
    fun hfits => ⟨?_, brpos_add_lt_of_fits hfits, ?_⟩,
    exec_reads_of_not_fits (i := .getu n) rfl⟩
  · exact fieldSum_lt_of_width s _ hn
  · exact congrArg Host.Outcome.next (readThen_of_fits hfits _)

/-- Settles O23: the field's two's-complement integer is in the range of 64 bits, so RES reads back as it. -/
theorem getsSignExtendsField : Obligations.GetsSignExtendsField := by
  intro s n hn
  refine ⟨decode_or_width (opc := 0x22#8) (i := .gets n) (decide_eq_true hn) rfl,
    fun hfits => ⟨sext64 n.toNat (fieldSum s s.brpos.toNat n.toNat), ?_, brpos_add_lt_of_fits hfits, ?_⟩,
    exec_reads_of_not_fits (i := .gets n) rfl⟩
  · have hv := fieldSum_lt s s.brpos.toNat n.toNat
    obtain ⟨hlo, hhi⟩ := twosComplement_range hn hv
    rw [sext64, signedField_eq hv, mod64_toInt hlo hhi]
  · exact congrArg Host.Outcome.next (readThen_of_fits hfits _)

/-- Settles O24, as O23: the sign-magnitude integer is in the range of 64 bits too. -/
theorem getsmReadsSignMagnitude : Obligations.GetsmReadsSignMagnitude := by
  intro s n hn
  refine ⟨decode_or_width (opc := 0x23#8) (i := .getsm n) (decide_eq_true hn) rfl,
    fun hfits => ⟨mod64 (signMagnitude n.toNat (fieldSum s s.brpos.toNat n.toNat)), ?_, brpos_add_lt_of_fits hfits, ?_⟩,
    exec_reads_of_not_fits (i := .getsm n) rfl⟩
  · have hv := fieldSum_lt s s.brpos.toNat n.toNat
    obtain ⟨hlo, hhi⟩ := signedMagnitude_range hn hv
    rw [signMagnitude_eq hv, mod64_toInt hlo hhi]
  · exact congrArg Host.Outcome.next (readThen_of_fits hfits _)

/-- Settles O27: SKIP hands on the state with the cursor moved as it is. -/
theorem skipMovesOnlyTheCursor : Obligations.SkipMovesOnlyTheCursor := by
  intro s n
  exact ⟨decode_or_count (opc := 0x26#8) (i := .skip n) rfl rfl,
    fun hfits => ⟨brpos_add_lt_of_fits hfits, congrArg Host.Outcome.next (readThen_of_fits hfits _)⟩,
    exec_reads_of_not_fits (i := .skip n) rfl⟩

/-! ### What a pattern is (GK-2) -/

theorem f64IsInfinite_iff {b : Word64} : f64IsInfinite b = true ↔ f64Exponent b = 0x7FF#11 ∧ f64Fraction b = 0#52 := by
  simp only [f64IsInfinite, Bool.and_eq_true, beq_iff_eq]

theorem f64IsNan_iff {b : Word64} : f64IsNan b = true ↔ f64Exponent b = 0x7FF#11 ∧ f64Fraction b ≠ 0#52 := by
  simp only [f64IsNan, Bool.and_eq_true, beq_iff_eq, bne_iff_ne]

theorem f64Unpack_of_finite {b : Word64} (h : f64IsFinite b = true) : ∃ m e, f64Unpack b = .finite (f64Sign b) m e := by
  rw [f64Unpack, if_neg (bne_iff_ne.1 h)]
  split <;> exact ⟨_, _, rfl⟩

theorem f64Unpack_of_infinite {b : Word64} (h : f64IsInfinite b = true) : f64Unpack b = .infinite (f64Sign b) := by
  obtain ⟨hexp, hfrac⟩ := f64IsInfinite_iff.1 h
  rw [f64Unpack, if_pos hexp, if_pos hfrac]

theorem f64Unpack_of_nan {b : Word64} (h : f64IsNan b = true) : f64Unpack b = .nan := by
  obtain ⟨hexp, hfrac⟩ := f64IsNan_iff.1 h
  rw [f64Unpack, if_pos hexp, if_neg hfrac]

theorem f64Value_of_finite {b : Word64} {neg : Bool} {m : ℕ} {e : ℤ} (h : f64Unpack b = .finite neg m e) :
    f64Value b = signFactor neg * (m * 2 ^ e) := by
  simp only [f64Value, h, signFactor, mul_assoc]

/-- The infinity of a sign is the only one. -/
theorem eq_infinity {b : Word64} (h : f64IsInfinite b = true) : b = f64Pattern (f64Sign b) f64InfinityBits := by
  obtain ⟨hexp, hfrac⟩ := f64IsInfinite_iff.1 h
  have hlow : b.toNat % 2 ^ 63 = f64InfinityBits := by
    have he := congrArg BitVec.toNat hexp
    have hf := congrArg BitVec.toNat hfrac
    simp only [f64Exponent, f64Fraction, BitVec.extractLsb'_toNat, Nat.shiftRight_eq_div_pow] at he hf
    norm_num [f64InfinityBits] at he hf ⊢
    omega
  rw [← hlow, f64Pattern_sign_low]

/-! ### An integer as binary64 (R16) -/

/-- A pattern whose exponent field is neither 0 nor all ones has the hidden bit in its significand. -/
theorem f64Unpack_normal (neg : Bool) {n : ℕ} (hn : n < f64InfinityBits) (hexp : 2 ^ 52 ≤ n) :
    ∃ m e, f64Unpack (f64Pattern neg n) = .finite neg m e ∧ m ≠ 0 := by
  rw [f64InfinityBits] at hn
  have hfin : ¬ f64Exponent (f64Pattern neg n) = 0x7FF#11 := by
    rw [f64Exponent_eq_iff neg (by omega) (by norm_num)]; omega
  have hnormal : ¬ f64Exponent (f64Pattern neg n) = 0#11 := by
    rw [f64Exponent_eq_iff neg (by omega) (by norm_num)]; omega
  rw [f64Unpack, if_neg hfin, if_neg hnormal, f64Sign_pattern]
  exact ⟨_, _, rfl, by positivity⟩

/-- R16: the last place of a nonzero integer below 2^64 is far from both ends of binary64, so it converts to a finite number that is not 0. -/
theorem f64Unpack_toF64_of_ne_zero {i : ℤ} (hlt : i.natAbs < 2 ^ 64) (hi : i ≠ 0) :
    ∃ m e, f64Unpack (toF64 i) = .finite (decide (i < 0)) m e ∧ m ≠ 0 := by
  have hm : i.natAbs ≠ 0 := Int.natAbs_ne_zero.2 hi
  have hsig := (scaled_isSignificand hm 0).nearest_le (f64Significand_nearestEven i.natAbs 0)
  have hlog : i.natAbs.log2 < 64 := (Nat.log2_lt hm).2 hlt
  have hplace := placeIndex_cast i.natAbs 0
  simp only [f64Ulp] at hplace
  have hfin : placeIndex i.natAbs 0 * 2 ^ 52 + f64Significand i.natAbs 0 < f64InfinityBits := by rw [f64InfinityBits]; omega
  rw [toF64, f64Round, if_neg hm, ← placeIndex, min_eq_left hfin.le]
  exact f64Unpack_normal _ hfin (by omega)

theorem f64Unpack_toF64_zero : f64Unpack (toF64 0) = .finite false 0 (-1074) := by decide

theorem f64Unpack_toF64 {i : ℤ} (hlt : i.natAbs < 2 ^ 64) : ∃ m e, f64Unpack (toF64 i) = .finite (decide (i < 0)) m e := by
  by_cases hi : i = 0
  · exact ⟨0, -1074, by rw [hi, f64Unpack_toF64_zero]; rfl⟩
  · obtain ⟨m, e, hunpack, _⟩ := f64Unpack_toF64_of_ne_zero hlt hi
    exact ⟨m, e, hunpack⟩

/-- R16: every integer is converted to a nearest binary64 number. -/
theorem toF64_roundsTo (i : ℤ) : RoundsTo i (toF64 i) := by
  have hround := (roundingIsToNearestEven (decide (i < 0)) i.natAbs 0).1
  rwa [zpow_zero, mul_one, ← signFactor, signFactor_mul_natAbs] at hround

/-! ### The product of an integer and SCALE (R16, R106, R107) -/

section
variable {i : ℤ}

theorem setProduct_of_some {x b : Word64} (h : mulF64 x t.scale = some b) : t.setProduct x = { t with res := b } := by
  rw [State.setProduct, h]; rfl

theorem setProduct_of_none {x : Word64} (h : mulF64 x t.scale = none) : t.setProduct x = t.setResNan x := by
  rw [State.setProduct, h]

/-- R16: the product of two finite numbers is rounded once, and its sign is the exclusive-or of theirs. -/
theorem setProduct_of_finite (hlt : i.natAbs < 2 ^ 64) (hscale : f64IsFinite t.scale = true) :
    ∃ r, RoundsTo (f64Value (toF64 i) * f64Value t.scale) r ∧ f64Sign r = (decide (i < 0) ^^ f64Sign t.scale) ∧
      t.setProduct (toF64 i) = { t with res := r } := by
  obtain ⟨m, e, hx⟩ := f64Unpack_toF64 hlt
  obtain ⟨m', e', hy⟩ := f64Unpack_of_finite hscale
  have hvalue : f64Value (toF64 i) * f64Value t.scale =
      signFactor (decide (i < 0) ^^ f64Sign t.scale) * (m * m' : ℕ) * 2 ^ (e + e') := by
    rw [f64Value_of_finite hx, f64Value_of_finite hy, ← signFactor_mul, zpow_add₀ two_ne_zero]
    push_cast; ring
  have hproduct : mulF64 (toF64 i) t.scale = some (f64Round (decide (i < 0) ^^ f64Sign t.scale) (m * m') (e + e')) := by
    simp only [mulF64, hx, hy]
  obtain ⟨hround, hsign⟩ := roundingIsToNearestEven (decide (i < 0) ^^ f64Sign t.scale) (m * m') (e + e')
  exact ⟨_, hvalue ▸ hround, hsign, setProduct_of_some hproduct⟩

/-- R16: an infinite SCALE times an integer that is not 0 is the infinity of the product's sign. -/
theorem setProduct_of_infinite (hlt : i.natAbs < 2 ^ 64) (hscale : f64IsInfinite t.scale = true) (hi : i ≠ 0) :
    t.setProduct (toF64 i) = { t with res := f64Pattern (decide (i < 0) ^^ f64Sign t.scale) f64InfinityBits } := by
  obtain ⟨m, e, hx, hm⟩ := f64Unpack_toF64_of_ne_zero hlt hi
  exact setProduct_of_some (by simp only [mulF64, hx, f64Unpack_of_infinite hscale, if_neg hm])

/-- K1-10: the other products are NaNs. -/
theorem setProduct_of_invalid (hlt : i.natAbs < 2 ^ 64)
    (hscale : f64IsNan t.scale = true ∨ (f64IsInfinite t.scale = true ∧ i = 0)) :
    ∃ r, f64IsNan r = true ∧ t.setProduct (toF64 i) = { t with res := r, draws := t.draws + 1 } := by
  have hnone : mulF64 (toF64 i) t.scale = none := by
    rcases hscale with hnan | ⟨hinf, rfl⟩
    · obtain ⟨m, e, hx⟩ := f64Unpack_toF64 hlt
      simp only [mulF64, hx, f64Unpack_of_nan hnan]
    · simp only [mulF64, f64Unpack_toF64_zero, f64Unpack_of_infinite hinf, if_true]
  exact ⟨_, nanPattern_isNan _, setProduct_of_none hnone⟩

end

/-- Settles O25: GETF is the product with the field as an integer that is not negative. -/
theorem getfMultipliesByScale : Obligations.GetfMultipliesByScale := by
  intro s n hn
  refine ⟨decode_or_width (opc := 0x24#8) (i := .getf n) (decide_eq_true hn) rfl, fun hfits => ?_,
    exec_reads_of_not_fits (i := .getf n) rfl⟩
  intro v pos
  have hexec : exec (.getf n) s = .next (State.setProduct { s with brpos := pos } (toF64 v)) :=
    congrArg Host.Outcome.next (readThen_of_fits hfits _)
  have hlt : (v : ℤ).natAbs < 2 ^ 64 := fieldSum_lt_of_width s _ hn
  have hsign : (decide ((v : ℤ) < 0) ^^ f64Sign s.scale) = f64Sign s.scale := by
    rw [decide_eq_false (Int.natCast_nonneg v).not_gt, Bool.false_xor]
  rw [hexec]
  refine ⟨fun hfin => ?_, fun ⟨hinf, hv⟩ => ?_, fun hinvalid => ?_⟩
  · obtain ⟨r, hround, hr, hstate⟩ := setProduct_of_finite (t := { s with brpos := pos }) hlt hfin
    exact ⟨toF64 v, r, toF64_roundsTo v, hround, hr.trans hsign, congrArg _ hstate⟩
  · rw [setProduct_of_infinite (t := { s with brpos := pos }) hlt hinf (by exact_mod_cast hv), hsign, ← eq_infinity hinf]
  · obtain ⟨r, hr, hstate⟩ := setProduct_of_invalid (t := { s with brpos := pos }) hlt (by exact_mod_cast hinvalid)
    exact ⟨r, hr, congrArg _ hstate⟩

/-- Settles O26: GETFS is the product with the field's two's-complement integer. -/
theorem getfsMultipliesByScale : Obligations.GetfsMultipliesByScale := by
  intro s n hn
  refine ⟨decode_or_width (opc := 0x25#8) (i := .getfs n) (decide_eq_true hn) rfl, fun hfits => ?_,
    exec_reads_of_not_fits (i := .getfs n) rfl⟩
  intro i pos
  have hv := fieldSum_lt s s.brpos.toNat n.toNat
  have hexec : exec (.getfs n) s = .next (State.setProduct { s with brpos := pos } (toF64 i)) := by
    rw [show i = signedField n.toNat _ from (signedField_eq hv).symm]
    exact congrArg Host.Outcome.next (readThen_of_fits hfits _)
  have hlt : i.natAbs < 2 ^ 64 := by
    have := twosComplement_range hn hv; omega
  rw [hexec]
  refine ⟨fun hfin => ?_, fun ⟨hinf, hi⟩ => ?_, fun hinvalid => ?_⟩
  · obtain ⟨r, hround, hr, hstate⟩ := setProduct_of_finite (t := { s with brpos := pos }) hlt hfin
    exact ⟨toF64 i, r, toF64_roundsTo i, hround, hr, congrArg _ hstate⟩
  · exact ⟨_, f64IsInfinite_pattern _, f64Sign_pattern _ _,
      congrArg _ (setProduct_of_infinite (t := { s with brpos := pos }) hlt hinf hi)⟩
  · obtain ⟨r, hr, hstate⟩ := setProduct_of_invalid (t := { s with brpos := pos }) hlt hinvalid
    exact ⟨r, hr, congrArg _ hstate⟩

/-! ### Laws of the reads (R109 to R111) -/

/-- Settles O28: a read fails or writes the cursor, RES and the count of free values, and a SKIP of these the cursor alone. -/
theorem bitReaderIsPure : Obligations.BitReaderIsPure := by
  intro i s t hi h
  rcases hi with rfl | ⟨n, hr⟩
  · cases h
    exact ⟨by simp [SameFrame, SameRun], fun _ => rfl⟩
  · rcases exec_reads hr h with ⟨_, rfl⟩ | ⟨_, r, d, rfl, hskip⟩
    · exact ⟨by simp [SameFrame, SameRun], fun _ => rfl⟩
    · refine ⟨by simp [SameFrame, SameRun], ?_⟩
      rintro (rfl | hi)
      · exact absurd hr id
      · exact (hskip hi).1

/-- R110: the field of width a + b is R12's sum over its first a bits followed by that over the other b. -/
theorem fieldSum_add (s : State) (p a b : ℕ) : fieldSum s p (a + b) = fieldSum s p a * 2 ^ b + fieldSum s (p + a) b := by
  simp only [fieldSum_eq, fieldValue_add]

/-- R101: t is as the bit reader stands after n bits of s were read or skipped. -/
structure MovedBy (n : ℕ) (s t : State) : Prop where
  frb : t.frb = s.frb
  brerr : t.brerr = false
  brpos : t.brpos.toNat = s.brpos.toNat + n

theorem MovedBy.fits {a b : ℕ} (h : MovedBy a s t) (hab : s.brpos.toNat + a + b ≤ 8 * s.flen.toNat) : Fits t b :=
  ⟨h.brerr, by rwa [State.flen_congr h.frb, h.brpos]⟩

theorem MovedBy.fieldSum_eq {a : ℕ} (h : MovedBy a s t) (b : ℕ) : fieldSum t t.brpos.toNat b = fieldSum s (s.brpos.toNat + a) b := by
  simp only [fieldSum, h.frb, h.brpos]

theorem toNat_ofNat_of_fits {n : ℕ} (h : Fits s n) : (BitVec.ofNat 13 (s.brpos.toNat + n)).toNat = s.brpos.toNat + n := by
  rw [BitVec.toNat_ofNat, Nat.mod_eq_of_lt (brpos_add_lt_of_fits h)]

/-- R103: GETU of a field that fits moves the cursor and writes R12's sum as a number. -/
theorem exec_getu_of_fits {n : BitVec 7} (hn : n.toNat ≤ 64) (h : Fits s n.toNat) :
    ∃ t, exec (.getu n) s = .next t ∧ MovedBy n.toNat s t ∧ t.res.toNat = fieldSum s s.brpos.toNat n.toNat := by
  obtain ⟨hlt, -, hexec⟩ := (getuReadsUnsignedField s n hn).2.1 h
  exact ⟨_, hexec, ⟨rfl, h.1, toNat_ofNat_of_fits h⟩, Nat.mod_eq_of_lt hlt⟩

/-- R108: SKIP of a field that fits moves the cursor. -/
theorem exec_skip_of_fits {n : BitVec 14} (h : Fits s n.toNat) : ∃ t, exec (.skip n) s = .next t ∧ MovedBy n.toNat s t :=
  ⟨_, ((skipMovesOnlyTheCursor s n).2.1 h).2, rfl, h.1, toNat_ofNat_of_fits h⟩

/-- Settles O29: after a read or a skip of a bits GETU reads the sum that R110's split of the joined field has for its other b bits. -/
theorem readsConcatenate : Obligations.ReadsConcatenate := by
  intro s a b hab herr hend
  have hwidth : (a + b).toNat = a.toNat + b.toNat := BitVec.toNat_add_of_lt (by omega)
  have hcount : (a.setWidth 14).toNat = a.toNat := BitVec.toNat_setWidth_of_le (by decide)
  have hfits : Fits s a.toNat := ⟨herr, by omega⟩
  obtain ⟨t₁, ht₁, hmove, hres₁⟩ := exec_getu_of_fits (by omega) hfits
  obtain ⟨t₂, ht₂, hmove₂, hres₂⟩ := exec_getu_of_fits (n := b) (by omega) (hmove.fits hend)
  obtain ⟨u₁, hu₁, hskip⟩ := exec_skip_of_fits (n := a.setWidth 14) (hcount ▸ hfits)
  rw [hcount] at hskip
  obtain ⟨u₂, hu₂, -, hresu⟩ := exec_getu_of_fits (n := b) (by omega) (hskip.fits hend)
  obtain ⟨w, hw, hmovew, hresw⟩ := exec_getu_of_fits (s := s) (n := a + b) (by omega) ⟨herr, by omega⟩
  rw [hwidth, fieldSum_add] at hresw
  rw [hmove.fieldSum_eq] at hres₂
  rw [hskip.fieldSum_eq] at hresu
  refine ⟨t₁, t₂, u₁, u₂, w, ht₁, ht₂, hu₁, hu₂, hw, ?_, ?_, ?_⟩
  · rw [hres₁, hres₂, hresw]
  · apply BitVec.eq_of_toNat_eq
    rw [hmove₂.brpos, hmove.brpos, hmovew.brpos, hwidth, Nat.add_assoc]
  · rw [hresu, hresw, Nat.mul_add_mod', Nat.mod_eq_of_lt (fieldSum_lt s _ _)]

/-- R111: every read or skip of a state with BRERR = 1 answers that state. -/
theorem exec_reads_of_brerr {j : Instr} {m : ℕ} (hr : Reads j m) (ht : t.brerr = true) : exec j t = .next t := by
  have hno : ¬ Fits t m := fun h => absurd (h.1.symm.trans ht) Bool.false_ne_true
  rw [exec_reads_of_not_fits hr hno, ← ht]

/-- Settles O30: a read that fails answers `s` with BRERR set, and one that does not fail leaves BRERR at 0. -/
theorem failedReadChangesOnlyBrerr : Obligations.FailedReadChangesOnlyBrerr := by
  intro i n s t hr h
  rcases exec_reads hr h with ⟨ho, rfl⟩ | ⟨ho, r, d, rfl, _⟩
  · exact ⟨iff_of_true rfl ho, fun _ => rfl, fun ht j m hj => exec_reads_of_brerr hj ht⟩
  · have herr : s.brerr ≠ true := fun h => ho (.inl h)
    exact ⟨iff_of_false herr ho, fun ht => absurd ht herr, fun ht => absurd ht herr⟩

end Sys2Proof.Proofs

/-! SUPPORT. The statements of 41_crc.md: CRC-24Q as a polynomial remainder (R120), its table form (R122) and laws (R123), and the standalone
checker (R125 to R128). -/

namespace Sys2Proof.Proofs

open Sys2Proof Sys2Proof.Machine

/-! ### The table form (R122) -/

/-- A 24-bit value is its two low bytes and its top byte, each in its place. -/
theorem low_xor_top (c : Crc24) : (c.extractLsb' 0 16).setWidth 24 ^^^ ((c.extractLsb' 16 8).setWidth 24 <<< 16) = c := by
  apply BitVec.eq_of_getLsbD_eq
  intro i hi
  by_cases h : i < 16
  · simp [h, hi]
  · simp [h, hi, show i - 16 < 8 by omega, Nat.add_sub_cancel' (Nat.not_lt.1 h)]

/-- R122: the byte is folded into the top byte, whose eight turns the table holds; the two low bytes are only shifted. -/
theorem crcUpd_eq_table (c : Crc24) (b : Byte) : crcUpd c b = (c <<< 8) ^^^ crcTable (c.extractLsb' 16 8 ^^^ b) := by
  have hlow : ((c.extractLsb' 0 16).setWidth 24).toNat < 2 ^ 16 := by simp; omega
  have hshift : (c.extractLsb' 0 16).setWidth 24 <<< 8 = c <<< 8 := by
    apply BitVec.eq_of_getLsbD_eq
    intro i hi
    simp [hi, show i - 8 < 16 by omega, show i - 8 < 24 by omega]
  calc crcUpd c b
      = crcShift8 ((c.extractLsb' 0 16).setWidth 24 ^^^ ((c.extractLsb' 16 8 ^^^ b).setWidth 24 <<< 16)) := by
        rw [BitVec.setWidth_xor, BitVec.shiftLeft_xor_distrib, ← BitVec.xor_assoc, low_xor_top, crcUpd]
    _ = (c <<< 8) ^^^ crcTable (c.extractLsb' 16 8 ^^^ b) := by
        rw [crcShift8_xor, crcShift8_low hlow, hshift, crcTable, crcUpd, BitVec.zero_xor]

/-- Settles O34: the form holds for every byte, and the listed entries are eight turns each. -/
theorem crcTableForm : Obligations.CrcTableForm :=
  ⟨crcUpd_eq_table, by decide, by decide, by decide, by decide, by decide, by decide⟩

/-! ### The laws of the CRC (R123) -/

/-- R123: zero bytes leave a CRC of 0 as it is. -/
theorem crc24q_replicate_zero (k : ℕ) : crc24q (List.replicate k 0#8) = 0#24 := by
  induction k with
  | zero => rfl
  | succ k ih => rw [List.replicate_succ', crc24q_append, ih]; exact crcUpd_zero

/-- The generator's constant term is 1, so a turn of the loop puts the bit it shifts out in bit 0: no bit is lost. -/
theorem crcShift_eq_zero_iff {c : Crc24} : crcShift c = 0#24 ↔ c = 0#24 := by
  refine ⟨fun h => ?_, fun h => h ▸ crcShift_zero⟩
  have hbit : (crcShift c).getLsbD 0 = c.getLsbD 23 := by
    rw [crcShift]
    cases c.getLsbD 23 <;> simp
  have htop : c.msb = false := by rw [BitVec.msb_eq_getLsbD_last, ← hbit, h]; rfl
  have hlt : 2 * c.toNat < 2 ^ 24 := BitVec.msb_eq_false_iff_two_mul_lt.1 htop
  have hdouble := (crcShift_low (c := c) (by omega)).2
  rw [h, BitVec.toNat_zero] at hdouble
  exact BitVec.eq_of_toNat_eq (by rw [BitVec.toNat_zero]; omega)

theorem crcShift8_eq_zero_iff {c : Crc24} : crcShift8 c = 0#24 ↔ c = 0#24 := by
  simp only [crcShift8, crcShift_eq_zero_iff]

/-- R122: eight turns move a byte below the top place up by one place. -/
theorem crcShift8_byte (b : Byte) {k : ℕ} (hk : k ≤ 8) : crcShift8 (b.setWidth 24 <<< k) = b.setWidth 24 <<< (k + 8) := by
  rw [crcShift8_low, BitVec.shiftLeft_add]
  have hpow : 2 ^ k ≤ 2 ^ 8 := Nat.pow_le_pow_right (by norm_num) hk
  calc (b.setWidth 24 <<< k).toNat
      ≤ b.toNat * 2 ^ k := by
        rw [BitVec.toNat_shiftLeft, BitVec.toNat_setWidth_of_le (by decide), Nat.shiftLeft_eq]; exact Nat.mod_le _ _
    _ ≤ b.toNat * 2 ^ 8 := Nat.mul_le_mul_left _ hpow
    _ < 2 ^ 16 := by have := b.isLt; omega

/-- A 24-bit value is its three bytes, each in its place. -/
theorem bytes_xor (f : Crc24) :
    ((f.extractLsb' 16 8).setWidth 24 <<< 16) ^^^ (((f.extractLsb' 8 8).setWidth 24 <<< 8) ^^^ (f.extractLsb' 0 8).setWidth 24) = f := by
  have hlow : ((f.extractLsb' 8 8).setWidth 24 <<< 8) ^^^ (f.extractLsb' 0 8).setWidth 24 = (f.extractLsb' 0 16).setWidth 24 := by
    apply BitVec.eq_of_getLsbD_eq
    intro i hi
    by_cases h : i < 8
    · simp [h, hi, show i < 16 by omega]
    · by_cases h' : i < 16
      · simp [h, h', hi, show i - 8 < 8 by omega, Nat.add_sub_cancel' (Nat.not_lt.1 h)]
      · simp [h, h', hi, show ¬ i - 8 < 8 by omega]
  rw [hlow, BitVec.xor_comm, low_xor_top]

/-- R123: three bytes folded in one after the other are three times eight turns of the value with their 24-bit value added to it. -/
theorem crcUpd_bytes (c f : Crc24) :
    crcUpd (crcUpd (crcUpd c (f.extractLsb' 16 8)) (f.extractLsb' 8 8)) (f.extractLsb' 0 8) = crcShift8 (crcShift8 (crcShift8 (c ^^^ f))) := by
  have hmid := crcShift8_byte (f.extractLsb' 8 8) (k := 8) (by norm_num)
  have hlow := crcShift8_byte (f.extractLsb' 0 8) (k := 0) (by norm_num)
  have hlow' := crcShift8_byte (f.extractLsb' 0 8) (k := 8) (by norm_num)
  rw [BitVec.shiftLeft_zero, Nat.zero_add] at hlow
  simp only [crcUpd, ← hlow', ← hmid, ← hlow, ← crcShift8_xor, BitVec.xor_assoc]
  rw [bytes_xor]

/-- Settles O35: the CRC of the bytes with a value's bytes after them is 24 turns of their exclusive or, and only 0 turns into 0. -/
theorem crcLaws : Obligations.CrcLaws := by
  refine ⟨fun k bytes => ?_, fun bytes f => ?_, fun bytes b => crc24q_append bytes [b]⟩
  · rw [crc24q_append, crc24q_replicate_zero]; rfl
  · have hfold := crcUpd_bytes (crc24q bytes) f
    rw [crc24q_append, List.foldl_cons, List.foldl_cons, List.foldl_cons, List.foldl_nil, hfold]
    simp only [crcShift8_eq_zero_iff, BitVec.xor_eq_zero_iff]
    exact eq_comm

/-! ### The CRC as a polynomial remainder (R120) -/

section
open Polynomial

/-- R120: bit i of a CRC value is the coefficient of x^i. -/
theorem crcPolynomial_coeff (c : Crc24) (i : ℕ) : (crcPolynomial c).coeff i = if c.getLsbD i then 1 else 0 := by
  have hterm (j : ℕ) : (if c.getLsbD j then X ^ j else 0 : (ZMod 2)[X]).coeff i = if i = j then (if c.getLsbD j then 1 else 0) else 0 := by
    split <;> simp [coeff_X_pow]
  rw [crcPolynomial, finsetSum_coeff, Finset.sum_congr rfl fun j _ => hterm j, Finset.sum_ite_eq]
  refine ite_eq_left_iff.2 fun hi => ?_
  rw [BitVec.getLsbD_of_ge c i (by simpa using hi)]; rfl

/-- R120: a CRC value is a polynomial of degree below 24. -/
theorem crcPolynomial_degree_lt (c : Crc24) : (crcPolynomial c).degree < (24 : ℕ) :=
  (degree_lt_iff_coeff_zero _ _).2 fun i hi => by rw [crcPolynomial_coeff, BitVec.getLsbD_of_ge _ _ hi]; rfl

/-- Addition over GF(2) is exclusive or. -/
theorem crcPolynomial_xor (a b : Crc24) : crcPolynomial (a ^^^ b) = crcPolynomial a + crcPolynomial b := by
  ext i
  rw [coeff_add, crcPolynomial_coeff, crcPolynomial_coeff, crcPolynomial_coeff, BitVec.getLsbD_xor]
  cases a.getLsbD i <;> cases b.getLsbD i <;> decide

/-- R121: `c << 1` is the product with x, without the x^24 that leaves the 24 bits. -/
theorem crcPolynomial_shiftLeft_one (c : Crc24) :
    crcPolynomial (c <<< 1) + (if c.getLsbD 23 then X ^ 24 else 0) = X * crcPolynomial c := by
  ext i
  have htop : (if c.getLsbD 23 then X ^ 24 else 0 : (ZMod 2)[X]).coeff i = if i = 24 ∧ c.getLsbD 23 then 1 else 0 := by
    cases c.getLsbD 23 <;> simp [coeff_X_pow]
  rw [coeff_add, crcPolynomial_coeff, BitVec.getLsbD_shiftLeft, htop]
  cases i with
  | zero => simp
  | succ i =>
    rw [coeff_X_mul, crcPolynomial_coeff]
    rcases lt_trichotomy i 23 with hi | rfl | hi
    · simp [show i + 1 < 24 by omega, hi.ne]
    · simp
    · simp [hi.ne', BitVec.getLsbD_of_ge c i hi]

/-- R121: a byte in the top place is the product with x^16 of its 8 bits. -/
theorem crcPolynomial_byte_top (b : Byte) : crcPolynomial (b.setWidth 24 <<< 16) = X ^ 16 * crcPolynomial (b.setWidth 24) := by
  ext i
  rw [coeff_X_pow_mul', crcPolynomial_coeff, crcPolynomial_coeff, BitVec.getLsbD_shiftLeft]
  by_cases hi : i < 24
  · simp [hi, show i - 16 < 24 by omega, ite_and]
  · simp [hi, BitVec.getLsbD_of_ge b (i - 16) (by omega)]

/-- R120: the generator's lower terms are the bits the loop adds. -/
theorem generator_eq : generator = X ^ 24 + crcPolynomial (Config.poly.setWidth 24) := by
  rw [generator, crcPolynomial]
  simp [Finset.sum_range_succ]
  ring

theorem generator_monic : generator.Monic := generator_eq ▸ monic_X_pow_add (crcPolynomial_degree_lt _)

theorem generator_degree : generator.degree = (24 : ℕ) := by
  rw [generator_eq, degree_add_eq_left_of_degree_lt (by rw [degree_X_pow]; exact crcPolynomial_degree_lt _), degree_X_pow]

/-- R121: modulo G(x) a turn of the loop multiplies by x. -/
theorem mk_crcShift (c : Crc24) : AdjoinRoot.mk generator (crcPolynomial (crcShift c)) = AdjoinRoot.mk generator (X * crcPolynomial c) := by
  rw [AdjoinRoot.mk_eq_mk, ← crcPolynomial_shiftLeft_one, crcShift]
  split
  · rw [crcPolynomial_xor, add_sub_add_left_eq_sub, CharTwo.sub_eq_add, add_comm, ← generator_eq]
  · rw [add_zero, sub_self]; exact dvd_zero _

/-- R121: modulo G(x) eight turns multiply by x^8. -/
theorem mk_crcShift8 (c : Crc24) : AdjoinRoot.mk generator (crcPolynomial (crcShift8 c)) = AdjoinRoot.mk generator (X ^ 8 * crcPolynomial c) := by
  simp only [crcShift8, mk_crcShift, map_mul, map_pow]
  ring

theorem streamBit_append_left {bytes : List Byte} (b : Byte) {j : ℕ} (h : j < 8 * bytes.length) :
    streamBit (bytes ++ [b]) j = streamBit bytes j := by
  rw [streamBit, byteAt_append [b] (by omega), ← streamBit]

/-- R12: the bits of the last byte, its top bit first. -/
theorem streamBit_append_last (bytes : List Byte) (b : Byte) {k : ℕ} (h : k < 8) :
    streamBit (bytes ++ [b]) (8 * bytes.length + k) = b.getLsbD (7 - k) := by
  have hbyte : byteAt (bytes ++ [b]) bytes.length = b := by simp [byteAt]
  rw [streamBit, show (8 * bytes.length + k) / 8 = bytes.length by omega, hbyte,
    show (8 * bytes.length + k) % 8 = k by omega]

/-- R120: a byte's 8 bits, the top bit first, are the low coefficients of its 24-bit value. -/
theorem crcPolynomial_byte (b : Byte) :
    crcPolynomial (b.setWidth 24) = ∑ k ∈ Finset.range 8, if b.getLsbD (7 - k) then X ^ (7 - k) else 0 := by
  rw [crcPolynomial]
  simp [Finset.sum_range_succ]
  ring

/-- R120: one more byte moves the bits before it up by 8 places. -/
theorem messagePolynomial_append (bytes : List Byte) (b : Byte) :
    messagePolynomial (bytes ++ [b]) = X ^ 8 * messagePolynomial bytes + crcPolynomial (b.setWidth 24) := by
  rw [messagePolynomial, List.length_append, List.length_singleton, Nat.mul_add, Nat.mul_one, Finset.sum_range_add,
    messagePolynomial, Finset.mul_sum, crcPolynomial_byte]
  congr 1
  · refine Finset.sum_congr rfl fun j hj => ?_
    rw [Finset.mem_range] at hj
    rw [streamBit_append_left b hj, mul_ite, mul_zero, ← pow_add,
      show 8 * bytes.length + 8 - 1 - j = 8 + (8 * bytes.length - 1 - j) by omega]
  · refine Finset.sum_congr rfl fun k hk => ?_
    rw [Finset.mem_range] at hk
    rw [streamBit_append_last bytes b hk, show 8 * bytes.length + 8 - 1 - (8 * bytes.length + k) = 7 - k by omega]

/-- R120: the CRC is congruent to `M(x) * x^24` modulo G(x). -/
theorem mk_crc24q (bytes : List Byte) :
    AdjoinRoot.mk generator (crcPolynomial (crc24q bytes)) = AdjoinRoot.mk generator (messagePolynomial bytes * X ^ 24) := by
  induction bytes using List.reverseRecOn with
  | nil => simp [crcPolynomial, messagePolynomial]
  | append_singleton bytes b ih =>
    rw [crc24q_append, List.foldl_cons, List.foldl_nil, crcUpd, mk_crcShift8, crcPolynomial_xor, crcPolynomial_byte_top,
      messagePolynomial_append]
    simp only [map_mul, map_add, map_pow] at ih ⊢
    rw [ih]
    ring

end

/-- Settles O33: the CRC is congruent to the shifted message, and its degree is below that of G(x). -/
theorem crcIsPolynomialRemainder : Obligations.CrcIsPolynomialRemainder := by
  intro bytes
  obtain ⟨q, hq⟩ := AdjoinRoot.mk_eq_mk.1 (mk_crc24q bytes).symm
  exact (Polynomial.div_modByMonic_unique q _ generator_monic
    ⟨by rw [← hq]; ring, (crcPolynomial_degree_lt _).trans_eq generator_degree.symm⟩).2.symm

/-! ### The checker (R125 to R128) -/

/-- R71: the opcode's word with an operand at its low end decodes to the opcode's command of that operand. -/
theorem decode_or_operand {opc : BitVec 8} {i : Instr} {k : ℕ} {x : BitVec k} (hk : k ≤ 24) (hi : i.WellFormed)
    (henc : encode i = wordOf opc (x.setWidth 24)) : decode (wordOf opc 0#24 ||| x.setWidth 32) = .ok i := by
  rw [wordOf_or opc x hk, ← henc]
  exact decodeInvertsEncode i hi

/-- R127: CRCCHK writes to CRCM whether CRC equals its operand. -/
theorem exec_crcchk (v : Crc24) (s : State) : exec (.crcchk v) s = .next { s with crcm := decide (s.crc = v) } := rfl

/-- Settles O36: CRCBYTE's update is the table form. -/
theorem checkerCommandsWriteTheirRegister : Obligations.CheckerCommandsWriteTheirRegister := by
  intro s b v
  refine ⟨decodeInvertsEncode .crcinit rfl, rfl,
    decode_or_operand (opc := 0x31#8) (i := .crcbyte b) (by norm_num) rfl (congrArg (wordOf 0x31#8) (byte_setWidth b).symm), ?_,
    decode_or_operand (opc := 0x32#8) (i := .crcchk v) le_rfl rfl (congrArg (wordOf 0x32#8) (BitVec.setWidth_eq v).symm),
    fun h => ?_, fun h => ?_⟩
  · exact congrArg (fun c => Host.Outcome.next { s with crc := c }) (crcUpd_eq_table s.crc b)
  · rw [exec_crcchk, decide_eq_true h]
  · rw [exec_crcchk, decide_eq_false h]

/-- Settles O37: the state follows CRC, which CRCBYTE takes through the fold that defines CRC-24Q. -/
theorem checkerComputesTheCrcOfItsBytes : Obligations.CheckerComputesTheCrcOfItsBytes := by
  intro s bytes v
  refine ⟨{ s with crc := crc24q bytes }, ?_, rfl, ?_⟩
  · refine List.foldl_hom (g₁ := crcUpd) (init := 0#24) (fun c => some { s with crc := c }) ?_
    exact fun _ _ => rfl
  · rw [exec_crcchk, decide_eq_decide.2 eq_comm]

/-- R128, R155: an exit of NEXT does the same to a state with another CRC and CRCM, and leaves both. -/
theorem leave_checker (s : State) (p : ℕ) (e : Exit) (c : Crc24) (m : Bool) :
    State.leave { s with crc := c, crcm := m } p e = { s.leave p e with crc := c, crcm := m } := by
  cases e <;> rfl

theorem leave_keeps_checker (s : State) (p : ℕ) (e : Exit) : (s.leave p e).crc = s.crc ∧ (s.leave p e).crcm = s.crcm := by
  cases e <;> exact ⟨rfl, rfl⟩

/-- Settles O38: the checker's named updates write CRC or CRCM alone, and none of NEXT's exits reads or writes either. -/
theorem checkerAndFramerShareNoState : Obligations.CheckerAndFramerShareNoState := by
  refine ⟨?_, ?_⟩
  · rintro i s t (rfl | ⟨b, rfl⟩ | ⟨v, rfl⟩) h <;> cases h <;> rfl
  · intro s t c m h
    cases h
    exact ⟨(leave_keeps_checker ..).1, (leave_keeps_checker ..).2, congrArg Host.Outcome.next (leave_checker ..)⟩

end Sys2Proof.Proofs

/-! SUPPORT. The statements of 42_framer.md: PUSH (R148), the exits of NEXT (R150 to R156), and what the frames that a stream yields depend on
(R157 to R159). -/

namespace Sys2Proof.Proofs

open Sys2Proof Sys2Proof.Machine

/-! ### PUSH (R148) -/

/-- A state with more bytes at the end of its buffer. -/
def fed (s : State) (ys : List Byte) : State := { s with buf := s.buf ++ ys }

@[simp] theorem fed_nil (s : State) : fed s [] = s := by rw [fed, List.append_nil]

@[simp] theorem fed_fed (s : State) (xs ys : List Byte) : fed (fed s xs) ys = fed s (xs ++ ys) := by simp [fed]

theorem exec_push_of_full {s : State} (h : s.buf.length = 2048) (b : Byte) : exec (.push b) s = .next { s with ovf := true } :=
  if_pos h

theorem exec_push_of_room {s : State} (h : s.buf.length ≠ 2048) (b : Byte) : exec (.push b) s = .next (fed s [b]) :=
  if_neg h

/-- Settles O39: the two branches of PUSH, and the word of its opcode with the byte at its low end. -/
theorem pushAppendsOrOverflows : Obligations.PushAppendsOrOverflows := fun _ b =>
  ⟨decode_or_operand (opc := 0x10#8) (i := .push b) (by norm_num) rfl (congrArg (wordOf 0x10#8) (byte_setWidth b).symm),
    fun h => exec_push_of_full h b, fun h => exec_push_of_room h b⟩

/-! ### The exits of NEXT (R150 to R154) -/

theorem exec_next_of_scan {s : State} {p : ℕ} {e : Exit} (h : scan s.buf = (p, e)) : exec .next s = .next (s.leave p e) := by
  rw [exec, execNext, h]

/-- R150: NEXT leaves by the exit of the position that its scan reaches. -/
theorem exec_next_of_reaches {s : State} {p : ℕ} {e : Exit} (h : ScanReaches s.buf p) (hv : verdict (s.buf.drop p) = some e) :
    exec .next s = .next (s.leave p e) := by
  obtain ⟨hp, hrej⟩ := h
  exact exec_next_of_scan (scan_eq hp (fun i hi => (verdict_eq_none_iff (hi.trans hp)).2 (hrej i hi)) hv)

/-- Settles O40: the scan passes over the whole buffer, and discards it. -/
theorem nextEmptyExit : Obligations.NextEmptyExit := by
  intro s h
  rw [exec_next_of_scan (scan_eq_empty fun p hp => (verdict_eq_none_iff hp).2 (h p hp)), State.leave, State.discard, List.drop_length]
  rfl

/-- Settles O41: at a sync byte with one or two bytes to the end. -/
theorem nextNeedExitOnShortHeader : Obligations.NextNeedExitOnShortHeader := by
  intro s p hreach hshort
  have hp := hreach.1
  have hnext := exec_next_of_reaches hreach (verdict_shortHeader hshort)
  obtain ⟨hsync, hend⟩ := hshort
  refine ⟨_, by omega, rfl, ?_, hnext⟩
  rw [List.drop_eq_getElem_cons hp, List.head?_cons, ← hsync, byteAt, List.getD_eq_getElem _ _ hp]

theorem lengthAt_drop (buf : List Byte) (p : ℕ) : lengthAt (buf.drop p) 0 = lengthAt buf p := by
  simp [lengthAt]

theorem lengthAt_le (buf : List Byte) (p : ℕ) : lengthAt buf p ≤ 1023 := headerLength_drop buf p ▸ headerLength_le _

/-- R153: a short candidate is one at the front of the bytes it begins. -/
theorem shortFrameAt_drop {buf : List Byte} {p : ℕ} (h : ShortFrameAt buf p) : ShortFrameAt (buf.drop p) 0 := by
  obtain ⟨hsync, hheader, hvalid, hend⟩ := h
  simpa [ShortFrameAt, HeaderValidAt, lengthAt_drop] using ⟨hsync, by omega, hvalid, by omega⟩

/-- More bytes do not change the length field of a header that is there. -/
theorem lengthAt_append {xs : List Byte} (ys : List Byte) (h : 3 ≤ xs.length) : lengthAt (xs ++ ys) 0 = lengthAt xs 0 :=
  headerLength_append ys h

/-- R153: a short candidate with more bytes behind it is short exactly while its L + 6 bytes are not there. -/
theorem shortFrameAt_append_iff {xs : List Byte} (ys : List Byte) (h : ShortFrameAt xs 0) :
    ShortFrameAt (xs ++ ys) 0 ↔ xs.length + ys.length < lengthAt xs 0 + 6 := by
  obtain ⟨hsync, hheader, hvalid, -⟩ := h
  have h0 : byteAt (xs ++ ys) 0 = byteAt xs 0 := byteAt_append ys (by omega)
  have h1 : byteAt (xs ++ ys) (0 + 1) = byteAt xs (0 + 1) := byteAt_append ys (by omega)
  unfold ShortFrameAt HeaderValidAt
  rw [h0, h1, lengthAt_append ys (by omega), List.length_append]
  exact ⟨fun ⟨_, _, _, hlt⟩ => by omega, fun hlt => ⟨hsync, by omega, hvalid, by omega⟩⟩

/-- Settles O42: the bytes that the candidate lacks are NEED, which is in its range. -/
theorem nextNeedExitOnShortFrame : Obligations.NextNeedExitOnShortFrame := by
  intro s p hreach hshort
  have hv := verdict_shortFrame hshort
  obtain ⟨hmin, hmax⟩ := need_range hreach.1 hv
  refine ⟨_, rfl, hmin, hmax, exec_next_of_reaches hreach hv, fun more => ?_⟩
  rw [shortFrameAt_append_iff more (shortFrameAt_drop hshort), lengthAt_drop, List.length_drop]
  omega

/-- Settles O43: the exit of an accepted frame, whose payload is in the buffer. -/
theorem nextYieldsAcceptedFrame : Obligations.NextYieldsAcceptedFrame := by
  intro s p hreach haccepted
  refine ⟨exec_next_of_reaches hreach (verdict_accepted haccepted), ?_⟩
  obtain ⟨_, _, hend, _⟩ := haccepted
  rw [List.length_take, List.length_drop]
  omega

/-- R150: the scan that ends at p has found each position before p rejected. -/
theorem rejectedAt_of_lt_scan {buf : List Byte} {p : ℕ} {e : Exit} (h : scan buf = (p, e)) : ∀ i < p, RejectedAt buf i := by
  intro i hi
  have hs := scan_spec buf
  rw [h] at hs
  obtain ⟨hnone, hend⟩ := hs
  exact (verdict_eq_none_iff (by rcases hend with ⟨rfl, _⟩ | ⟨hp, _⟩ <;> omega)).1 (hnone i hi)

/-- R152, R153: the scan ends with NEED at a short candidate. -/
theorem short_of_need {buf : List Byte} {p k : ℕ} (h : verdict (buf.drop p) = some (.need k)) : ShortHeaderAt buf p ∨ ShortFrameAt buf p := by
  rcases verdict_eq_some h with ⟨hshort, _⟩ | ⟨hshort, _⟩ | ⟨_, he⟩
  · exact .inl hshort
  · exact .inr hshort
  · cases he

/-- R145: the scan ends with FRAME at an accepted frame. -/
theorem accepted_of_frame {buf : List Byte} {p len : ℕ} {f : Crc24} (h : verdict (buf.drop p) = some (.frame len f)) :
    AcceptedAt buf p ∧ len = lengthAt buf p := by
  rcases verdict_eq_some h with ⟨_, he⟩ | ⟨_, he⟩ | ⟨haccepted, he⟩ <;> cases he
  exact ⟨haccepted, rfl⟩

/-- Settles O44: the exits of NEXT, each with what its scan has met. -/
theorem nextExitsAsItsScanFinds : Obligations.NextExitsAsItsScanFinds := by
  intro s
  obtain ⟨t, h⟩ := exec_total .next s
  refine ⟨t, h, ?_⟩
  rcases exec_next h with ⟨hscan, rfl⟩ | ⟨p, k, hp, hscan, hv, rfl⟩ | ⟨p, len, f, hp, hscan, hv, rfl⟩
  · exact .inl ⟨rfl, rejectedAt_of_lt_scan hscan⟩
  · exact .inr (.inl ⟨rfl, p, ⟨hp, rejectedAt_of_lt_scan hscan⟩, short_of_need hv⟩)
  · exact .inr (.inr ⟨rfl, p, ⟨hp, rejectedAt_of_lt_scan hscan⟩, (accepted_of_frame hv).1⟩)

/-- R153, R156: a candidate that waits for more bytes is shorter than the longest frame. -/
theorem length_of_need {buf : List Byte} {p k : ℕ} (h : verdict (buf.drop p) = some (.need k)) : buf.length < p + 1029 := by
  have hlen := lengthAt_le buf p
  rcases short_of_need h with ⟨_, hend⟩ | ⟨_, _, _, hend⟩ <;> omega

/-- R7: a frame's payload has at least 2 bytes, and its frame ends within the buffer. -/
theorem frame_range {buf : List Byte} {p len : ℕ} {f : Crc24} (h : verdict (buf.drop p) = some (.frame len f)) :
    2 ≤ len ∧ p + len + 6 ≤ buf.length := by
  obtain ⟨⟨_, ⟨_, hmin⟩, hend, _⟩, rfl⟩ := accepted_of_frame h
  exact ⟨hmin, hend⟩

/-- Settles O45: EMPTY keeps nothing, NEED less than the longest frame, and FRAME takes a whole frame out. -/
theorem nextFreesAFullBuffer : Obligations.NextFreesAFullBuffer := by
  intro s hfull
  obtain ⟨t, h⟩ := exec_total .next s
  refine ⟨t, h, ?_⟩
  rcases exec_next h with ⟨_, rfl⟩ | ⟨p, k, _, _, hv, rfl⟩ | ⟨p, len, f, _, _, hv, rfl⟩
  · simp
  · have hshort := length_of_need hv
    simp only [State.setExit_buf, State.discard_buf, List.length_drop]
    exact ⟨by omega, nofun, nofun⟩
  · have hframe := frame_range hv
    simp only [State.setExit_buf, State.discard_buf, State.latch_buf, List.length_drop]
    exact ⟨by omega, fun _ => by omega, nofun⟩

/-- Settles O49: no exit writes the first part's registers, and of the frame's and the bit reader's only FRAME does. -/
theorem nextKeepsTheFrameUnlessItYields : Obligations.NextKeepsTheFrameUnlessItYields := by
  intro s t h
  refine ⟨⟨exec_sameRun h, ?_⟩, ?_⟩
  · cases h
    cases (scan s.buf).2 <;> exact ⟨rfl, rfl, rfl, rfl, rfl, rfl, rfl⟩
  · rcases exec_next h with ⟨_, rfl⟩ | ⟨p, k, _, _, _, rfl⟩ | ⟨p, len, f, _, _, _, rfl⟩
    · exact ⟨fun _ => ⟨⟨rfl, rfl, rfl, rfl⟩, rfl, rfl⟩, nofun, _, rfl⟩
    · exact ⟨fun _ => ⟨⟨rfl, rfl, rfl, rfl⟩, rfl, rfl⟩, nofun, _, rfl⟩
    · exact ⟨fun hlast => absurd rfl hlast, fun _ => ⟨rfl, rfl⟩, _, rfl⟩

/-! ### Rejected bytes (R147, R158) -/

/-- R147: what NEXT does at an exit is the same without the bytes before the scan position. -/
theorem leave_append_left (s : State) (junk : List Byte) (p : ℕ) (e : Exit) :
    State.leave { s with buf := junk ++ s.buf } (p + junk.length) e = s.leave p e := by
  have hdrop (k : ℕ) : (junk ++ s.buf).drop (p + junk.length + k) = s.buf.drop (p + k) := by
    rw [show p + junk.length + k = junk.length + (p + k) by omega, ← List.drop_drop, List.drop_left]
  have hstart : (junk ++ s.buf).drop (p + junk.length) = s.buf.drop p := hdrop 0
  have hbyte (k : ℕ) : byteAt (junk ++ s.buf) (p + junk.length + k) = byteAt s.buf (p + k) := by
    simpa using congrArg (byteAt · 0) (hdrop k)
  cases e with
  | empty | need _ => simp only [State.leave, State.discard, hstart]
  | frame len f => simp only [State.leave, State.latch, State.discard, Nat.add_assoc _ len, hdrop, hbyte]

/-- Settles O47: the scan passes over the bytes before the stream, and ends in the stream as without them. -/
theorem resyncAfterRejectedBytes : Obligations.ResyncAfterRejectedBytes := by
  intro s junk hrej
  have hscan := scan_append_rejected junk s.buf fun i hi =>
    (verdict_eq_none_iff (by rw [List.length_append]; omega)).2 (hrej i hi)
  rw [exec_next_of_scan (s := { s with buf := junk ++ s.buf }) hscan, leave_append_left]
  rfl

/-! ### A host that feeds a stream (R157, R159) -/

theorem runMoves_push {s t : State} {b : Byte} (h : exec (.push b) s = .next t) (ms : List Move) :
    runMoves (.push b :: ms) s = runMoves ms t := by
  rw [runMoves, h]

theorem runMoves_next {s t : State} (h : exec .next s = .next t) (ms : List Move) :
    runMoves (.next :: ms) s = (if t.last = .frame then t.yielded :: (runMoves ms t).1 else (runMoves ms t).1, (runMoves ms t).2) := by
  rw [runMoves, h]

/-- Settles O48, by induction on the moves: a PUSH leaves the candidate short, and NEXT waits at it. -/
theorem falseSyncByteStallsTheFramer : Obligations.FalseSyncByteStallsTheFramer := by
  intro s ms hshort hlt
  induction ms generalizing s with
  | nil => exact ⟨rfl, (List.append_nil _).symm, rfl, rfl, rfl, rfl⟩
  | cons m ms ih =>
    have hheader : 3 ≤ s.buf.length := hshort.2.1
    cases m with
    | push b =>
      rw [pushedBytes, List.length_cons] at hlt
      have hmax := lengthAt_le s.buf 0
      have hshort' : ShortFrameAt (fed s [b]).buf 0 := (shortFrameAt_append_iff [b] hshort).2 (by rw [List.length_singleton]; omega)
      have hlt' : (fed s [b]).buf.length + (pushedBytes ms).length < lengthAt (fed s [b]).buf 0 + 6 := by
        rw [fed, lengthAt_append [b] hheader, List.length_append, List.length_singleton]; omega
      rw [runMoves_push (exec_push_of_room (by omega) b)]
      simpa [pushedBytes, SameFrame, fed] using ih (fed s [b]) hshort' hlt'
    | next =>
      have hreach : ScanReaches s.buf 0 := ⟨by omega, nofun⟩
      rw [runMoves_next (exec_next_of_reaches hreach (verdict_shortFrame hshort))]
      exact ih _ hshort hlt

/-- R154: what NEXT does with a frame that is in the buffer does not depend on the bytes behind it, which stay. -/
theorem leave_fed_frame {s : State} {p len : ℕ} (hmin : 2 ≤ len) (hend : p + len + 6 ≤ s.buf.length) (f : Crc24) (ys : List Byte) :
    (fed s ys).leave p (.frame len f) = fed (s.leave p (.frame len f)) ys := by
  have hpayload : ((s.buf ++ ys).drop (p + 3)).take len = (s.buf.drop (p + 3)).take len := by
    rw [List.drop_append_of_le_length (by omega), List.take_append_of_le_length (by rw [List.length_drop]; omega)]
  have hrest : (s.buf ++ ys).drop (p + len + 6) = s.buf.drop (p + len + 6) ++ ys := List.drop_append_of_le_length hend
  simp only [State.leave, State.latch, State.discard, State.setExit, fed, hpayload, hrest,
    byteAt_append ys (show p + 3 < s.buf.length by omega), byteAt_append ys (show p + 4 < s.buf.length by omega)]

/-- R157: a NEXT that yields does the same before more bytes arrive as after. -/
theorem exec_next_fed_of_frame {s t : State} (h : exec .next s = .next t) (hlast : t.last = .frame) (ys : List Byte) :
    exec .next (fed s ys) = .next (fed t ys) := by
  rcases exec_next h with ⟨_, rfl⟩ | ⟨p, k, _, _, _, rfl⟩ | ⟨p, len, f, _, hscan, hv, rfl⟩
  · cases hlast
  · cases hlast
  · obtain ⟨hmin, hend⟩ := frame_range hv
    rw [exec_next_of_scan (s := fed s ys) (scan_append_frame ys hscan), leave_fed_frame hmin hend]
    rfl

/-- R157: a rejected position stays rejected with more bytes behind it. -/
theorem rejectedAt_append {buf : List Byte} {p : ℕ} (ys : List Byte) (hp : p < buf.length) (h : RejectedAt buf p) :
    RejectedAt (buf ++ ys) p := by
  rw [← verdict_eq_none_iff (by rw [List.length_append]; omega), List.drop_append_of_le_length hp.le]
  exact verdict_append_none ys (by simpa using hp) ((verdict_eq_none_iff hp).2 h)

/-- R147: the bytes that a scan passes over make no difference to the NEXT after more bytes. -/
theorem exec_next_fed_discard {s : State} {p : ℕ} {e : Exit} (h : scan s.buf = (p, e)) (ys : List Byte) :
    exec .next (fed (s.discard p) ys) = exec .next (fed s ys) := by
  have hbuf : s.buf.take p ++ (s.buf.drop p ++ ys) = s.buf ++ ys := by rw [← List.append_assoc, List.take_append_drop]
  have hrej : ∀ i < (s.buf.take p).length, RejectedAt (s.buf.take p ++ (s.buf.drop p ++ ys)) i := by
    intro i hi
    rw [List.length_take, lt_min_iff] at hi
    rw [hbuf]
    exact rejectedAt_append ys hi.2 (rejectedAt_of_lt_scan h i hi.1)
  have hresync := resyncAfterRejectedBytes (fed (s.discard p) ys) (s.buf.take p) hrej
  rw [← hresync, fed, State.discard, hbuf]
  rfl

/-- R150: NEXT writes LAST and NEED at every exit, and reads neither. -/
theorem exec_next_setExit (s : State) (l : Last) (k : ℕ) : exec .next (s.setExit l k) = exec .next s := by
  have hleave (p : ℕ) (e : Exit) : (s.setExit l k).leave p e = s.leave p e := by cases e <;> rfl
  exact congrArg Host.Outcome.next (hleave ..)

/-- R157: a NEXT that does not yield makes no difference to the NEXT after more bytes. -/
theorem exec_next_fed_of_not_frame {s t : State} (h : exec .next s = .next t) (hlast : t.last ≠ .frame) (ys : List Byte) :
    exec .next (fed t ys) = exec .next (fed s ys) := by
  rcases exec_next h with ⟨hscan, rfl⟩ | ⟨p, k, _, hscan, _, rfl⟩ | ⟨p, len, f, _, _, _, rfl⟩
  · exact (exec_next_setExit (fed (s.discard _) ys) _ _).trans (exec_next_fed_discard hscan ys)
  · exact (exec_next_setExit (fed (s.discard _) ys) _ _).trans (exec_next_fed_discard hscan ys)
  · exact absurd rfl hlast

/-- R157: the frames that a host sees which issues NEXT until LAST is not FRAME. -/
inductive Drained : State → List Yielded → Prop
  | done {s t : State} (h : exec .next s = .next t) (hlast : t.last ≠ .frame) : Drained s []
  | frame {s t : State} {fs : List Yielded} (h : exec .next s = .next t) (hlast : t.last = .frame) (ht : Drained t fs) :
    Drained s (t.yielded :: fs)

theorem Drained.unique {s : State} {fs gs : List Yielded} (hf : Drained s fs) (hg : Drained s gs) : fs = gs := by
  induction hf generalizing gs with
  | done h hlast =>
    cases hg with
    | done => rfl
    | frame h' hlast' => cases h.symm.trans h'; exact absurd hlast' hlast
  | frame h hlast _ ih =>
    cases hg with
    | done h' hlast' => cases h.symm.trans h'; exact absurd hlast hlast'
    | frame h' _ ht' => cases h.symm.trans h'; rw [ih ht']

/-- The frames are those of the next NEXT and of the state it leaves. -/
theorem Drained.congr {s s' : State} {fs : List Yielded} (hnext : exec .next s' = exec .next s) (h : Drained s fs) : Drained s' fs := by
  cases h with
  | done h hlast => exact .done (hnext.trans h) hlast
  | frame h hlast ht => exact .frame (hnext.trans h) hlast ht

theorem room_of_neverPushesFull {s : State} {b : Byte} {ms : List Move} (h : neverPushesFull (.push b :: ms) s = true) :
    s.buf.length ≠ 2048 ∧ neverPushesFull ms (fed s [b]) = true := by
  rw [neverPushesFull, Bool.and_eq_true, Bool.not_eq_true', Bool.eq_false_iff, ne_eq, full_iff] at h
  obtain ⟨hroom, hms⟩ := h
  rw [exec_push_of_room hroom] at hms
  exact ⟨hroom, hms⟩

theorem neverPushesFull_next {s t : State} (h : exec .next s = .next t) (ms : List Move) :
    neverPushesFull (.next :: ms) s = neverPushesFull ms t := by
  rw [neverPushesFull, h]

/-- R157: the frames seen along a host's moves, and then those of the state they end in, are the frames of the first state with all the pushed
bytes in its buffer. -/
theorem drained_fed_pushedBytes {s : State} {ms : List Move} {fs : List Yielded} (hroom : neverPushesFull ms s = true)
    (h : Drained (runMoves ms s).2 fs) : Drained (fed s (pushedBytes ms)) ((runMoves ms s).1 ++ fs) := by
  induction ms generalizing s with
  | nil => rwa [pushedBytes, fed_nil]
  | cons m ms ih =>
    cases m with
    | push b =>
      obtain ⟨hne, hms⟩ := room_of_neverPushesFull hroom
      rw [runMoves_push (exec_push_of_room hne b)] at h ⊢
      simpa [pushedBytes] using ih hms h
    | next =>
      obtain ⟨t, ht⟩ := exec_total .next s
      rw [neverPushesFull_next ht] at hroom
      rw [runMoves_next ht] at h ⊢
      have hrun := ih hroom h
      by_cases hlast : t.last = .frame
      · rw [if_pos hlast]
        exact Drained.frame (t := fed t _) (exec_next_fed_of_frame ht hlast _) hlast hrun
      · rw [if_neg hlast]
        exact hrun.congr (exec_next_fed_of_not_frame ht hlast _).symm

/-- The state that further moves end in is theirs from the state before them. -/
theorem runMoves_append_snd (ms ms' : List Move) (s : State) : (runMoves (ms ++ ms') s).2 = (runMoves ms' (runMoves ms s).2).2 := by
  induction ms generalizing s with
  | nil => rfl
  | cons m ms ih =>
    cases m with
    | push b =>
      obtain ⟨t, ht⟩ := exec_total (.push b) s
      rw [List.cons_append, runMoves_push ht, runMoves_push ht, ih]
    | next =>
      obtain ⟨t, ht⟩ := exec_total .next s
      rw [List.cons_append, runMoves_next ht, runMoves_next ht, ih]

/-- R157: a state in which the host stops holds no further frame. -/
theorem drained_of_drains {ms : List Move} {s : State} (h : drains ms s) : Drained (runMoves ms s).2 [] := by
  obtain ⟨hnext, hlast⟩ := h
  obtain ⟨before, rfl⟩ := List.getLast?_eq_some_iff.1 hnext
  obtain ⟨t, ht⟩ := exec_total .next (runMoves before s).2
  rw [runMoves_append_snd, runMoves_next ht, runMoves] at hlast ⊢
  have hagain := exec_next_fed_of_not_frame ht hlast []
  rw [fed_nil, fed_nil] at hagain
  exact .done (hagain.trans ht) hlast

/-- R157: a host with the two habits of the rule sees the frames of its first state with all the pushed bytes in its buffer. -/
theorem drained_runMoves {s : State} {ms : List Move} (hroom : neverPushesFull ms s = true) (h : drains ms s) :
    Drained (fed s (pushedBytes ms)) (runMoves ms s).1 := by
  simpa using drained_fed_pushedBytes hroom (drained_of_drains h)

/-- Settles O46: both hosts see the frames of one state. -/
theorem chunkingIndependence : Obligations.ChunkingIndependence := by
  intro s ms ms' hroom hroom' hbytes hdrains hdrains'
  have hframes := drained_runMoves hroom hdrains
  rw [hbytes] at hframes
  exact hframes.unique (drained_runMoves hroom' hdrains')

end Sys2Proof.Proofs

/-! SUPPORT. The statements of 43_control.md: NOP (R160), SRST (R161) and CLRERR (R162). -/

namespace Sys2Proof.Proofs

open Sys2Proof Sys2Proof.Machine

/-- R71: format N rejects every operand field but 0. -/
theorem formN_of_ne_zero {a : BitVec 24} (ha : a ≠ 0#24) (i : Instr) : formN i a = .error .reservedOperandBit :=
  if_neg ha

/-- R77: a word with NOP's opcode and an ARG bit set is illegal by case (b). -/
theorem decode_nop_of_ne_zero {a : BitVec 24} (ha : a ≠ 0#24) : decode (wordOf 0x00#8 a) = .error .reservedOperandBit :=
  (decode_wordOf 0x00#8 a).trans (formN_of_ne_zero ha .nop)

/-- Settles O50: the all-zero word is NOP's encoding, and the decoder rejects the other words of its opcode. -/
theorem nopChangesNothing : Obligations.NopChangesNothing := fun s =>
  ⟨decodeInvertsEncode .nop rfl, rfl, fun _ harg => execute_of_decode_error (decode_nop_of_ne_zero harg) s⟩

/-- Settles O51: `State.softReset` gives each field of R44 its value in `State.reset`. -/
theorem srstGivesTheResetState : Obligations.SrstGivesTheResetState := fun _ =>
  ⟨decodeInvertsEncode .srst rfl, rfl⟩

/-- Settles O52: ILL and OVF are the two fields `State.clearErrors` writes. -/
theorem clrerrClearsIllAndOvf : Obligations.ClrerrClearsIllAndOvf := fun _ =>
  ⟨decodeInvertsEncode .clrerr rfl, rfl⟩

end Sys2Proof.Proofs

/-! SUPPORT. The statements of 60_exceptions.md: the sticky flags (R171 to R176), and several blocks on one platform (R181). -/

namespace Sys2Proof.Proofs

open Sys2Proof Sys2Proof.Machine

/-! ### The blocks of a platform (R181) -/

/-- R181: where the k-th block's step answers t, so does its platform: with t in the k-th place and the other blocks as they were. -/
theorem platform_step_of_next {p : Platform} {k : ℕ} {s t : State} (hk : p.instances[k]? = some s) (h : step s = .next t) :
    ∃ p', p.step k = .next p' ∧ p'.instances[k]? = some t ∧ p'.instances.length = p.instances.length ∧
      ∀ j, j ≠ k → p'.instances[j]? = p.instances[j]? := by
  obtain ⟨hlt, _⟩ := List.getElem?_eq_some_iff.1 hk
  refine ⟨⟨p.instances.set k t⟩, ?_, List.getElem?_set_self hlt, List.length_set, fun j hj => List.getElem?_set_ne hj.symm⟩
  simp only [Platform.step, hk, h]

theorem platform_step_of_refused {p : Platform} {k : ℕ} {s : State} {r : Refusal} (hk : p.instances[k]? = some s)
    (h : step s = .refused r) : p.step k = .refused r := by
  simp only [Platform.step, hk, h]

theorem platform_step_of_none {p : Platform} {k : ℕ} (hk : p.instances[k]? = none) : p.step k = .next p := by
  simp only [Platform.step, hk]

/-- R58, R59: no access writes the number of its block. -/
theorem perform_unit {r : Reg} {k : AccessKind} {s t : State} (h : perform r k s = .next t) : t.unit = s.unit := by
  cases k with
  | read => cases h; rfl
  | write v =>
    obtain ⟨_, _, _, hunit⟩ := perform_write_sameRun h
    exact hunit

/-- R181: a step leaves the block its number. -/
theorem step_unit {s t : State} (h : step s = .next t) : t.unit = s.unit := by
  rcases step_cases h with ⟨_, rfl⟩ | ⟨a, rest, _, _, _, _, _, hperform⟩
  · rfl
  · exact perform_unit (s := s.taken a.agent rest) hperform

/-- Settles O18: each platform's step is the step of its k-th block, whose next state replaces that block alone. -/
theorem instancesShareNothing : Obligations.InstancesShareNothing := by
  intro k p q hpq
  refine ⟨fun s hp => ?_, fun hp => ⟨platform_step_of_none hp, platform_step_of_none (hpq ▸ hp)⟩⟩
  have hq : q.instances[k]? = some s := hpq ▸ hp
  refine ⟨fun t h => ?_, fun r h => ⟨platform_step_of_refused hp h, platform_step_of_refused hq h⟩⟩
  obtain ⟨p', hp', hpk, hlen, hothers⟩ := platform_step_of_next hp h
  obtain ⟨q', hq', hqk, _⟩ := platform_step_of_next hq h
  exact ⟨step_unit h, p', q', hp', hq', hpk, hqk, hlen, hothers⟩

/-! ### ILL and OVF (R171, R148, R176) -/

/-- R171, R176: ILL is 0 after a command where it was 0 before, and after CLRERR and SRST. -/
theorem exec_ill {i : Instr} {s t : State} (h : exec i s = .next t) : t.ill = false ↔ s.ill = false ∨ i = .clrerr ∨ i = .srst := by
  obtain ⟨_, _, _, _, _, _, _, _, hwriters, _⟩ := eachRegisterHasItsWriters i s t h
  by_cases hi : i = .clrerr ∨ i = .srst
  · refine iff_of_true ?_ (.inr hi)
    rcases hi with rfl | rfl <;> cases h <;> rfl
  · rw [not_imp_comm.1 hwriters hi, or_iff_left hi]

/-- R148, R176: OVF is 1 after a PUSH on a full buffer, and where it was 1 before and the command is not CLRERR or SRST. -/
theorem exec_ovf {i : Instr} {s t : State} (h : exec i s = .next t) :
    t.ovf = true ↔ ((∃ b, i = .push b) ∧ s.buf.length = 2048) ∨ (s.ovf = true ∧ ¬ (i = .clrerr ∨ i = .srst)) := by
  obtain ⟨_, _, _, _, _, _, _, _, _, hwriters⟩ := eachRegisterHasItsWriters i s t h
  by_cases hpush : ∃ b, i = .push b
  · obtain ⟨b, rfl⟩ := hpush
    rcases exec_push h with ⟨hfull, rfl⟩ | ⟨hroom, rfl⟩
    · exact iff_of_true rfl (.inl ⟨⟨b, rfl⟩, hfull⟩)
    · rw [State.cnt] at hroom
      simp [hroom]
  · by_cases hi : i = .clrerr ∨ i = .srst
    · rcases hi with rfl | rfl <;> cases h <;> simp
    · rw [not_imp_comm.1 hwriters (not_or.2 ⟨hpush, hi⟩)]
      simp [hpush, hi]

/-! ### BRERR (R174, R176) -/

/-- R102, R154, R161: the bit reader starts again at the first bit: REWIND, SRST, or a NEXT that yields and so answers LAST = FRAME. -/
def RestartsReader (i : Instr) (t : State) : Prop := i = .rewind ∨ i = .srst ∨ (i = .next ∧ t.last = .frame)

/-- R174: a read or skip goes beyond the payload. -/
def ReadsBeyond (i : Instr) (s : State) : Prop := ∃ n, Reads i n ∧ 8 * s.flen.toNat < s.brpos.toNat + n

theorem not_restartsReader_of_reads {i : Instr} {n : ℕ} (hr : Reads i n) (t : State) : ¬ RestartsReader i t := by
  rintro (rfl | rfl | ⟨rfl, _⟩) <;> exact hr

/-- The width of a read or skip is its operand. -/
theorem reads_unique {i : Instr} {n m : ℕ} (hn : Reads i n) (hm : Reads i m) : n = m := by
  cases i with
  | getu _ | gets _ | getsm _ | getf _ | getfs _ | skip _ => exact hn.trans hm.symm
  | nop | srst | clrerr | push _ | next | rewind | crcinit | crcbyte _ | crcchk _ => exact hn.elim

theorem readsBeyond_iff {i : Instr} {n : ℕ} {s : State} (hr : Reads i n) :
    ReadsBeyond i s ↔ 8 * s.flen.toNat < s.brpos.toNat + n :=
  ⟨fun ⟨_, hm, h⟩ => reads_unique hr hm ▸ h, fun h => ⟨n, hr, h⟩⟩

theorem brerr_of_restartsReader {i : Instr} {s t : State} (h : exec i s = .next t) (hi : RestartsReader i t) : t.brerr = false := by
  rcases hi with rfl | rfl | ⟨rfl, hlast⟩
  · cases h; rfl
  · cases h; rfl
  · rcases exec_next h with ⟨_, rfl⟩ | ⟨_, _, _, _, _, rfl⟩ | ⟨_, _, _, _, _, _, rfl⟩
    · cases hlast
    · cases hlast
    · rfl

/-- R174, R176: BRERR is 1 after a read or skip beyond the payload, and where it was 1 before and the bit reader does not restart. -/
theorem exec_brerr {i : Instr} {s t : State} (h : exec i s = .next t) :
    t.brerr = true ↔ ReadsBeyond i s ∨ (s.brerr = true ∧ ¬ RestartsReader i t) := by
  by_cases hreads : ∃ n, Reads i n
  · obtain ⟨n, hr⟩ := hreads
    obtain ⟨hbrerr, _⟩ := failedReadChangesOnlyBrerr i n s t hr h
    rw [hbrerr, readsBeyond_iff hr, and_iff_left (not_restartsReader_of_reads hr t), or_comm]
  · have hbeyond : ¬ ReadsBeyond i s := fun ⟨n, hr, _⟩ => hreads ⟨n, hr⟩
    by_cases hi : RestartsReader i t
    · simp [brerr_of_restartsReader h hi, hbeyond, hi]
    · obtain ⟨_, _, _, _, _, _, _, hwriters, _⟩ := eachRegisterHasItsWriters i s t h
      have hkept : t.brerr = s.brerr := by
        by_contra hne
        rcases hwriters (.inr hne) with hr | hrewind | hnext | hsrst
        · exact hreads hr
        · exact hi (.inl hrewind)
        · exact hi (.inr (.inr hnext))
        · exact hi (.inr (.inl hsrst))
      simp [hkept, hbeyond, hi]

/-! ### What sets and what clears a flag (R171, R174, R176) -/

/-- Settles O54: a command that clears a flag does not meet the condition that sets it. -/
theorem onlyNamedCommandsClearFlags : Obligations.OnlyNamedCommandsClearFlags := by
  intro i s t h
  refine ⟨fun hset => ?_, fun hset => ?_, fun hset => ?_⟩
  · simp [exec_ill h, hset]
  · have hpush : i = .clrerr ∨ i = .srst → ¬ ((∃ b, i = .push b) ∧ s.buf.length = 2048) := by rintro (rfl | rfl) <;> simp
    rw [← Bool.not_eq_true, exec_ovf h, and_iff_right hset, not_or, not_not]
    exact and_iff_right_of_imp hpush
  · show t.brerr = false ↔ RestartsReader i t
    rw [← Bool.not_eq_true, exec_brerr h, and_iff_right hset, not_or, not_not]
    exact and_iff_right_of_imp fun hi ⟨_, hr, _⟩ => not_restartsReader_of_reads hr t hi

/-- Settles O55: where a flag is 0 before the command, what remains of its rule is the condition that sets it. -/
theorem onlyNamedConditionsSetFlags : Obligations.OnlyNamedConditionsSetFlags := by
  intro i s t h
  refine ⟨fun hclear => (exec_ill h).2 (.inl hclear), fun hclear => ?_, fun hclear => ?_⟩
  · simp [exec_ovf h, hclear]
  · show t.brerr = true ↔ ReadsBeyond i s
    simp [exec_brerr h, hclear]

end Sys2Proof.Proofs
